-- ==== Sys2Proof/Word.lean ====
section
/-! DEFINITION. The words of the wire format and of the pixels (00_scope.md section 5, 10_state.md R9). -/
namespace Sys2Proof

/-- A byte, the unit of the stream (20_memory.md R23). -/
abbrev Byte := BitVec 8

/-- A u16: a coordinate of a header or one raw RGB565 value. -/
abbrev U16 := BitVec 16

/-- A u32: a marker or `data_len`. -/
abbrev U32 := BitVec 32

/-- The seven fields of a header, with the widths of 10_state.md R9. The register set `HR` holds one. -/
structure Header where
  marker  : U32
  cmd     : Byte
  x1      : U16
  y1      : U16
  x2      : U16
  y2      : U16
  dataLen : U32
  deriving DecidableEq, Repr, Inhabited

/-- The header whose fields are all zero. -/
def Header.zero : Header := ⟨0, 0, 0, 0, 0, 0, 0⟩

/-- An output pixel: a triple of u8 (00_scope.md section 5, D23). -/
structure RGB888 where
  r : Byte
  g : Byte
  b : Byte
  deriving DecidableEq, Repr

/-- The pixel `(0,0,0)`, which a newly allocated canvas holds everywhere (48_downstream.md R112). -/
def RGB888.black : RGB888 := ⟨0, 0, 0⟩

/-- The tag of a FRAME record (10_state.md R14, 30_encoding.md R45). -/
inductive Fmt where
  | raw16
  | rle16
  | raw8
  | rle8
  deriving DecidableEq, Repr

end Sys2Proof
end

