-- ==== Sys2Proof/Config.lean ====
section
/-! DEFINITION. The parameters of 00_scope.md section 4: fixed for the lifetime of the block (R4, R20), written by no port.
A machine carries one `Config`, and every statement holds for every `Config` (log 2). -/
namespace Sys2Proof

/-- `HEADER_SIZE = 17` (00_scope.md R2). -/
abbrev headerSize : Nat := 17

/-- `END_SIZE = 4` (00_scope.md R2). -/
abbrev endSize : Nat := 4

/-- `CMD_INFO = 0x01` (00_scope.md R2). -/
abbrev cmdInfo : Byte := 0x01

/-- `CMD_RAW16 = 0x02` (00_scope.md R2). -/
abbrev cmdRaw16 : Byte := 0x02

/-- The three OPEN command codes (D3) with the proof R3 requires: the five codes are pairwise distinct. -/
structure Codes where
  rle16    : Byte
  raw8     : Byte
  rle8     : Byte
  distinct : [cmdInfo, cmdRaw16, rle16, raw8, rle8].Nodup
  deriving DecidableEq, Repr

/-- `DIV332` (41_decoder.md R85, D10). -/
inductive Rounding where
  | floor
  | nearest
  deriving DecidableEq, Repr

/-- `RLE_ODD_TAIL` (41_decoder.md R91, D13). -/
inductive OddTail where
  | fail
  | ignore
  deriving DecidableEq, Repr

/-- `RLE_OVERRUN` (41_decoder.md R93, D14). -/
inductive Overrun where
  | truncate
  | fail
  deriving DecidableEq, Repr

/-- `STALE_REGION_POLICY` (48_downstream.md R115, D29, OPEN). -/
inductive StalePolicy where
  | drop
  | clip
  deriving DecidableEq, Repr

/-- `DISCONNECT_CANVAS` (48_downstream.md R121, D37, OPEN). -/
inductive DisconnectCanvas where
  | retain
  | blank
  deriving DecidableEq, Repr

/-- DESIGN CHOICE (log 8): what a FULL reset does to the consumer, on which the spec is silent. Both readings are admitted. -/
inductive ConsumerOnFull where
  | keep
  | restart
  deriving DecidableEq, Repr

/-- What becomes of `POS` where a RECONNECT empties `BUF`: R146 keeps it, and by 10_state.md R8 it counts from that reset on.
Both are admitted (log 9). -/
inductive PosOnClear where
  | keep
  | restart
  deriving DecidableEq, Repr

/-- Which `INFO_MAP` the consumer applies (D4, OPEN; log 3): the device's, of which nothing is known, or the test
instantiation of 30_encoding.md R56. -/
inductive InfoMap where
  | device
  | testMap
  deriving DecidableEq, Repr

/-- The parameters. `qcapPos` is log 12: a queue of capacity 0 could hold no entry, and R108 pushes one. -/
structure Config where
  marker                : U32
  endMarker             : U32
  codes                 : Codes
  swap16Reset           : Bool
  div332                : Rounding
  rleOddTail            : OddTail
  rleOverrun            : Overrun
  bufCap                : Option Nat
  qcap                  : Nat
  qcapPos               : 0 < qcap
  infoMap               : InfoMap
  stalePolicy           : StalePolicy
  disconnectCanvas      : DisconnectCanvas
  reconnectClearsBuffer : Bool
  posOnClear            : PosOnClear
  consumerOnFull        : ConsumerOnFull
  deriving DecidableEq, Repr

/-- The free value of `HR` where the spec leaves it unspecified (10_state.md R10, R21; log 5). It has no body. -/
opaque Config.freeHeader : Nat → Header

/-- The device's `INFO_MAP(x1, y1, x2, y2, data_len) = (width, height, bpp)` (10_state.md R15, OPEN; log 3). It has no body. -/
opaque Config.deviceInfoMap : U16 → U16 → U16 → U16 → U32 → Int × Int × Int

/-- The test instantiation of 30_encoding.md R56 with the defaults of 00_scope.md section 4 (log 2).
It is not a claim about the real device: a proof that uses it is a proof about the test instantiation only. -/
def Config.test : Config where
  marker                := 0x4B52414D
  endMarker             := 0x21444E45
  codes                 := ⟨0x03, 0x04, 0x05, by decide⟩
  swap16Reset           := false
  div332                := .floor
  rleOddTail            := .fail
  rleOverrun            := .truncate
  bufCap                := none
  qcap                  := 30
  qcapPos               := by decide
  infoMap               := .testMap
  stalePolicy           := .drop
  disconnectCanvas      := .retain
  reconnectClearsBuffer := false
  posOnClear            := .keep
  consumerOnFull        := .keep

end Sys2Proof
end

