-- ==== Sys2Proof/Syntax.lean ====
section
/-! DEFINITION. The instructions: the values of the `cmd` byte of a 17-byte header (30_encoding.md R40 to R45;
one constructor per row of spec/opcode_table.json), and the whole FRAME record of the wire format. -/
namespace Sys2Proof

/-- One header, dispatched on `cmd` (40_framer.md R62). A FRAME's payload and end marker are bytes of `BUF`
that its meaning reads (steps E and F of R58, log 16). -/
inductive Instr where
  /-- INFO (40_framer.md R67): five raw fields. -/
  | info (x1 y1 x2 y2 : U16) (dataLen : U32)
  /-- FRAME_RAW16 (40_framer.md R68). -/
  | frameRaw16 (x1 y1 x2 y2 : U16) (dataLen : U32)
  /-- FRAME_RLE16 (40_framer.md R69). -/
  | frameRle16 (x1 y1 x2 y2 : U16) (dataLen : U32)
  /-- FRAME_RAW8 (40_framer.md R70). -/
  | frameRaw8 (x1 y1 x2 y2 : U16) (dataLen : U32)
  /-- FRAME_RLE8 (40_framer.md R71). -/
  | frameRle8 (x1 y1 x2 y2 : U16) (dataLen : U32)
  /-- UNKNOWN (40_framer.md R72): any `cmd` outside the five codes; no operands. -/
  | unknown (cmd : Byte)
  deriving DecidableEq, Repr

/-- The source's FrameRecord `{header, payload, end_marker}` (00_scope.md glossary, 30_encoding.md R43). -/
structure FrameRecord where
  fmt       : Fmt
  x1        : U16
  y1        : U16
  x2        : U16
  y2        : U16
  dataLen   : U32
  payload   : List Byte
  endMarker : U32
  deriving DecidableEq, Repr

/-- The FRAME command of a format (30_encoding.md R45). -/
def Fmt.instr (fmt : Fmt) (x1 y1 x2 y2 : U16) (dataLen : U32) : Instr :=
  match fmt with
  | .raw16 => .frameRaw16 x1 y1 x2 y2 dataLen
  | .rle16 => .frameRle16 x1 y1 x2 y2 dataLen
  | .raw8  => .frameRaw8 x1 y1 x2 y2 dataLen
  | .rle8  => .frameRle8 x1 y1 x2 y2 dataLen

/-- The instruction of a FRAME record's header. -/
def FrameRecord.instr (r : FrameRecord) : Instr := r.fmt.instr r.x1 r.y1 r.x2 r.y2 r.dataLen

end Sys2Proof
end

