-- ==== Sys2Proof/WellFormed.lean ====
section
/-! DEFINITION. Which terms stand for something the wire format can carry. -/
namespace Sys2Proof

/-- The `cmd` byte of an instruction under a configuration (30_encoding.md R45). -/
def Instr.cmd (c : Config) : Instr → Byte
  | .info _ _ _ _ _       => cmdInfo
  | .frameRaw16 _ _ _ _ _ => cmdRaw16
  | .frameRle16 _ _ _ _ _ => c.codes.rle16
  | .frameRaw8 _ _ _ _ _  => c.codes.raw8
  | .frameRle8 _ _ _ _ _  => c.codes.rle8
  | .unknown cmd          => cmd

/-- The five command codes (00_scope.md R3). -/
def Config.known (c : Config) : List Byte :=
  [cmdInfo, cmdRaw16, c.codes.rle16, c.codes.raw8, c.codes.rle8]

/-- Every field of the five commands takes every value of its width (30_encoding.md R42, R53: no reserved field or bit).
An unknown command is a `cmd` value outside the five codes (R53). -/
def Instr.wf (c : Config) : Instr → Bool
  | .info _ _ _ _ _       => true
  | .frameRaw16 _ _ _ _ _ => true
  | .frameRle16 _ _ _ _ _ => true
  | .frameRaw8 _ _ _ _ _  => true
  | .frameRle8 _ _ _ _ _  => true
  | .unknown cmd          => !(c.known.contains cmd)

/-- A FRAME record whose payload has the `data_len` bytes its header announces (30_encoding.md R43). -/
def FrameRecord.wf (r : FrameRecord) : Bool :=
  r.payload.length == r.dataLen.toNat

/-- A valid record in the sense of 40_framer.md R76: `data_len > 0` and the end marker equal to `END_MARKER`. -/
def FrameRecord.valid (c : Config) (r : FrameRecord) : Bool :=
  r.wf && decide (0 < r.dataLen.toNat) && decide (r.endMarker = c.endMarker)

end Sys2Proof
end

