-- ==== Sys2Proof/Decode.lean ====
section
/-! DEFINITION. Little-endian assembly, the header parse, the marker test, the dispatch on `cmd`, the decoder of a
header and its encoder (20_memory.md R25 to R27, 30_encoding.md R41 to R45, R54). -/
namespace Sys2Proof

/-- `B[i]`. An offset past the end reads 0; no rule reads there, since every read is guarded by a length test (log 17). -/
def byteAt (b : List Byte) (i : Nat) : Byte := b.getD i 0

/-- `LE16` of two bytes, lowest offset first (00_scope.md section 5). -/
def le16 (b0 b1 : Byte) : U16 :=
  b0.setWidth 16 ||| (b1.setWidth 16 <<< 8)

/-- `BE16` of two bytes, lowest offset first (00_scope.md section 5). -/
def be16 (b0 b1 : Byte) : U16 :=
  (b0.setWidth 16 <<< 8) ||| b1.setWidth 16

/-- `LE32` of four bytes, lowest offset first (00_scope.md section 5). -/
def le32 (b0 b1 b2 b3 : Byte) : U32 :=
  b0.setWidth 32 ||| (b1.setWidth 32 <<< 8) ||| (b2.setWidth 32 <<< 16) ||| (b3.setWidth 32 <<< 24)

/-- `LE16(B, i)`. -/
def le16At (b : List Byte) (i : Nat) : U16 := le16 (byteAt b i) (byteAt b (i + 1))

/-- `BE16(B, i)`. -/
def be16At (b : List Byte) (i : Nat) : U16 := be16 (byteAt b i) (byteAt b (i + 1))

/-- `LE32(B, i)`. -/
def le32At (b : List Byte) (i : Nat) : U32 :=
  le32 (byteAt b i) (byteAt b (i + 1)) (byteAt b (i + 2)) (byteAt b (i + 3))

/-- The byte map of 30_encoding.md R41. -/
def parseHeader (b : List Byte) : Header where
  marker  := le32At b 0
  cmd     := byteAt b 4
  x1      := le16At b 5
  y1      := le16At b 7
  x2      := le16At b 9
  y2      := le16At b 11
  dataLen := le32At b 13

/-- The dispatch of 40_framer.md R62: it reads only `HR.cmd`; every value outside the five codes is UNKNOWN (R53). -/
def dispatch (c : Config) (h : Header) : Instr :=
  if h.cmd = cmdInfo then .info h.x1 h.y1 h.x2 h.y2 h.dataLen
  else if h.cmd = cmdRaw16 then .frameRaw16 h.x1 h.y1 h.x2 h.y2 h.dataLen
  else if h.cmd = c.codes.rle16 then .frameRle16 h.x1 h.y1 h.x2 h.y2 h.dataLen
  else if h.cmd = c.codes.raw8 then .frameRaw8 h.x1 h.y1 h.x2 h.y2 h.dataLen
  else if h.cmd = c.codes.rle8 then .frameRle8 h.x1 h.y1 h.x2 h.y2 h.dataLen
  else .unknown h.cmd

/-- What a byte string says when it is read as a header. -/
inductive Decoded where
  /-- An instruction, and the bytes after its 17-byte header. -/
  | instr (i : Instr) (rest : List Byte)
  /-- Fewer than 17 bytes: nothing can be told yet (30_encoding.md R44, 40_framer.md R61). -/
  | truncated
  /-- The first four bytes are not the start marker (20_memory.md R26). -/
  | badMarker
  deriving DecidableEq, Repr

/-- The decoder, total on any bytes: length, then marker, then the dispatch. -/
def decode (c : Config) (b : List Byte) : Decoded :=
  if b.length < headerSize then .truncated
  else if le32At b 0 = c.marker then .instr (dispatch c (parseHeader b)) (b.drop headerSize)
  else .badMarker

/-- The two little-endian bytes of a u16 (30_encoding.md R54). -/
def bytes16 (v : U16) : List Byte := [v.extractLsb' 0 8, v.extractLsb' 8 8]

/-- The four little-endian bytes of a u32 (20_memory.md R26, 30_encoding.md R54). -/
def bytes32 (v : U32) : List Byte :=
  [v.extractLsb' 0 8, v.extractLsb' 8 8, v.extractLsb' 16 8, v.extractLsb' 24 8]

/-- The 17 bytes of a header, in the order of 30_encoding.md R41. -/
def encodeHeader (h : Header) : List Byte :=
  bytes32 h.marker ++ [h.cmd] ++ bytes16 h.x1 ++ bytes16 h.y1 ++ bytes16 h.x2 ++ bytes16 h.y2 ++ bytes32 h.dataLen

/-- The header fields an instruction stands for. UNKNOWN has no operands (40_framer.md R72): its twelve operand bytes are written as 0. -/
def Instr.header (c : Config) (i : Instr) : Header :=
  match i with
  | .info x1 y1 x2 y2 n       => ⟨c.marker, i.cmd c, x1, y1, x2, y2, n⟩
  | .frameRaw16 x1 y1 x2 y2 n => ⟨c.marker, i.cmd c, x1, y1, x2, y2, n⟩
  | .frameRle16 x1 y1 x2 y2 n => ⟨c.marker, i.cmd c, x1, y1, x2, y2, n⟩
  | .frameRaw8 x1 y1 x2 y2 n  => ⟨c.marker, i.cmd c, x1, y1, x2, y2, n⟩
  | .frameRle8 x1 y1 x2 y2 n  => ⟨c.marker, i.cmd c, x1, y1, x2, y2, n⟩
  | .unknown cmd              => ⟨c.marker, cmd, 0, 0, 0, 0, 0⟩

/-- The encoder of a header (30_encoding.md R41, R45, R54). -/
def encode (c : Config) (i : Instr) : List Byte := encodeHeader (i.header c)

/-- The bytes of a whole FRAME record (30_encoding.md R43, R54): header, payload, end marker. -/
def encodeRecord (c : Config) (r : FrameRecord) : List Byte :=
  encode c r.instr ++ r.payload ++ bytes32 r.endMarker

/-- The header bytes of a word numbered as spec/opcode_table.json numbers it: the table's bits begin at byte offset 4
(`byte_offset`), so bit 0 is bit 0 of the `cmd` byte and bits 8 and up are the operand bytes; the marker in front of
them is the configuration's (log 14). -/
def tableBytes (c : Config) (nbits w : Nat) : List Byte :=
  bytes32 c.marker ++ (List.range 13).map (fun k => BitVec.ofNat 8 ((w % 2 ^ nbits) / 2 ^ (8 * k)))

/-- What the decoder reads from a word of the opcode table, under the configuration of `State.reset` (log 2, log 14). -/
def decodeTableWord (nbits w : Nat) : Option Instr :=
  match decode Config.test (tableBytes Config.test nbits w) with
  | .instr i _ => some i
  | .truncated => none
  | .badMarker => none

end Sys2Proof
end

