-- ==== Sys2Proof/Machine/State.lean ====
section
/-! DEFINITION. The state: the block (10_state.md), the downstream contract (48_downstream.md), the parameters, and the
plain data that says which transaction comes next and whose turn it is. -/
namespace Sys2Proof.Machine

/-- Why the machine stops. No constructor: nothing is stuck (93_implementation_defined.md section 2), every framing and
decode error is a discard or a drop after which the pass goes on (60_exceptions.md R130, R131), and the one fault of the
block, OVF (R133), is a sticky flag with which the machine goes on taking transactions. Safe: no run stops. -/
inductive Fault where
  deriving DecidableEq, Repr

/-- Why an instruction has no meaning. -/
inductive Refusal where
  /-- Raised by `exec` only, for an instruction whose arm has no meaning yet. No arm does so now. Safe: a refused step proves nothing about the hardware. -/
  | notModelled (mnemonic : String)
  deriving DecidableEq, Repr

/-- The codes of 60_exceptions.md R125. -/
inductive DiagCode where
  | noSync
  | preSync
  | unknownCmd
  | badEnd
  | zeroLen
  | decBadRect
  | decUnsupported
  | decShort
  | decRleOdd
  | decRleShort
  | decRleLong
  | overflow
  deriving DecidableEq, Repr

/-- An Info event: the raw header fields (10_state.md R14, R15) and the new `INFO_SEQ` (R13). -/
structure Info where
  x1      : U16
  y1      : U16
  x2      : U16
  y2      : U16
  dataLen : U32
  seq     : Nat
  deriving DecidableEq, Repr

/-- A Region event (10_state.md R14, 41_decoder.md R97). -/
structure Region where
  fmt    : Fmt
  x      : U16
  y      : U16
  w      : Nat
  h      : Nat
  pixels : List RGB888
  seq    : Nat
  deriving DecidableEq, Repr

/-- The event kinds of 10_state.md R14. -/
inductive Event where
  | info (i : Info)
  | region (r : Region)
  | diag (code : DiagCode) (n : Nat)
  deriving DecidableEq, Repr

/-- Where the block stands in a pass of 40_framer.md R58: between passes, at the loop head L, or at step A (log 1). -/
inductive Phase where
  | idle
  | atL
  | atA
  deriving DecidableEq, Repr

/-- The kinds of reset (70_reset_and_hazards.md R143). -/
inductive ResetKind where
  | full
  | liveness
  | reconnect
  deriving DecidableEq, Repr

/-- A transaction on a port of the block (10_state.md section 1). A chunk has at least one byte, so its first byte stands apart. -/
inductive Transaction where
  /-- `in` (R5). -/
  | chunk (first : Byte) (rest : List Byte)
  /-- `ctrl.swap16` (R11). -/
  | ctrl (swap16 : Bool)
  /-- `rst` (70_reset_and_hazards.md R143). -/
  | rst (kind : ResetKind)
  deriving DecidableEq, Repr

/-- Whose turn a step is (60_exceptions.md R135; log 6): the block's, or the consumer's for a tick (48_downstream.md R113) or for a loss of connection (R121). -/
inductive Turn where
  | block
  | tick
  | connectionLost
  deriving DecidableEq, Repr

/-- A memory of pixels by address: the pairs that differ from what an unlisted address reads as, `(0,0,0)` (48_downstream.md R112; log 13). -/
abbrev Memory := List (Nat × RGB888)

/-- The canonical form: addresses strictly rising, no entry equal to what an unlisted address reads as. -/
abbrev Memory.wf (m : Memory) : Prop :=
  m.Pairwise (fun a b => a.1 < b.1) ∧ ∀ c ∈ m, c.2 ≠ RGB888.black

/-- `Sized{width, height, bpp, pixels, alloc_seq}` (48_downstream.md R111). The sizes are the integers `INFO_MAP` gives: nothing
in the spec keeps them from being negative, and then no pixel lies inside (log 3). Pixel (X, Y) stands at address `Y * width + X`. -/
structure Surface where
  width    : Int
  height   : Int
  bpp      : Int
  pixels   : Memory
  allocSeq : Nat
  deriving DecidableEq, Repr

/-- The two states of the canvas (48_downstream.md R111). -/
inductive Canvas where
  | uninitialized
  | sized (f : Surface)
  deriving DecidableEq, Repr

/-- The whole machine. -/
structure State where
  /-- The parameters (00_scope.md section 4): no step changes them (R20). -/
  cfg         : Config
  /-- `BUF` (10_state.md R6). -/
  buf         : List Byte
  /-- `POS` (10_state.md R8). -/
  pos         : Nat
  /-- The model's own: the value of `POS` at the last reset that emptied `BUF`, from which R8 counts (log 9). -/
  posBase     : Nat
  /-- The number of bytes ingested since the last reset that emptied `BUF` (10_state.md R8); no rule reads it (log 9). -/
  ingested    : Nat
  /-- `HR` (10_state.md R9). -/
  hr          : Header
  /-- `SWAP16` (10_state.md R11): false is 0, true is 1. -/
  swap16      : Bool
  /-- `INFO_SEQ` (10_state.md R13). -/
  infoSeq     : Nat
  /-- `OUT`, oldest event first (10_state.md R14). -/
  out         : List Event
  /-- `OVF` (10_state.md R16). -/
  ovf         : Bool
  /-- The model's own: where the pass stands (log 1). -/
  phase       : Phase
  /-- The model's own: the counter behind the free value of `HR` (log 5). -/
  freeCtr     : Nat
  /-- `Q`, oldest region first (48_downstream.md R107). -/
  queue       : List Region
  /-- `PI`, oldest first (48_downstream.md R110). -/
  pendingInfo : List Info
  /-- The canvas (48_downstream.md R111). -/
  canvas      : Canvas
  /-- The canvas last presented (48_downstream.md R113 step 3), none before the first tick (log 19). -/
  shown       : Option Canvas
  /-- The model's own: the transactions still to come, in their total order (20_memory.md R37; log 6). -/
  inputs      : List Transaction
  /-- The model's own: whose turn the coming steps are; when none is listed it is the block's (log 6). -/
  turns       : List Turn
  deriving DecidableEq, Repr

/-- The machine right after a FULL reset, for any parameters: 10_state.md R21, with `HR` zero (log 4) and the downstream
contract empty (log 7). -/
def State.resetWith (c : Config) : State where
  cfg         := c
  buf         := []
  pos         := 0
  posBase     := 0
  ingested    := 0
  hr          := Header.zero
  swap16      := c.swap16Reset
  infoSeq     := 0
  out         := []
  ovf         := false
  phase       := .idle
  freeCtr     := 0
  queue       := []
  pendingInfo := []
  canvas      := .uninitialized
  shown       := none
  inputs      := []
  turns       := []

/-- The machine right after reset, under the test instantiation of the OPEN parameters (30_encoding.md R56; log 2). -/
def State.reset : State := State.resetWith Config.test

end Sys2Proof.Machine
end

