-- ==== Sys2Proof/Machine/Flags.lean ====
section
/-! DEFINITION. The block's only flag, `OVF`: there are no condition codes (10_state.md R16, R17). -/
namespace Sys2Proof.Machine

/-- Whether a chunk of `n` bytes makes `len(BUF)` exceed a finite `BUF_CAP` (60_exceptions.md R133; `none` is infinity). -/
def exceedsCap (s : State) (n : Nat) : Bool :=
  match s.cfg.bufCap with
  | none     => false
  | some cap => decide (cap < s.buf.length + n)

/-- `OVF` after an `in` transaction of `n` bytes: sticky, and set when the chunk would exceed `BUF_CAP` (60_exceptions.md R133).
The chunk is refused exactly when this is set. -/
def ovfAfter (s : State) (n : Nat) : Bool := s.ovf || exceedsCap s n

end Sys2Proof.Machine
end

