-- ==== Sys2Proof/Machine/Operands.lean ====
section
/-! DEFINITION. The operand forms and the decoder: geometry, pixel unpacking, run-length expansion, and the decode of one
record (30_encoding.md section 3, 41_decoder.md). All arithmetic on sizes is exact (R105). -/
namespace Sys2Proof.Machine

/-- The numeric value of a code (60_exceptions.md R125). -/
def DiagCode.value : DiagCode → Byte
  | .noSync         => 0x01
  | .preSync        => 0x02
  | .unknownCmd     => 0x03
  | .badEnd         => 0x04
  | .zeroLen        => 0x05
  | .decBadRect     => 0x10
  | .decUnsupported => 0x11
  | .decShort       => 0x12
  | .decRleOdd      => 0x13
  | .decRleShort    => 0x14
  | .decRleLong     => 0x15
  | .overflow       => 0x20

/-- A pixel as one word, `r << 16 | g << 8 | b` (D23; no rule depends on it). -/
def packRGB (p : RGB888) : BitVec 24 := p.r ++ p.g ++ p.b

/-- `total = HEADER_SIZE + data_len + 4`, exact (40_framer.md R63). -/
def recordLength (dataLen : U32) : Nat := headerSize + dataLen.toNat + endSize

/-- `hi - lo + 1`: the width or the height of an inclusive range with `lo ≤ hi` (30_encoding.md R46). -/
def extent (lo hi : U16) : Nat := hi.toNat - lo.toNat + 1

/-- `Expand565` (30_encoding.md R48, 41_decoder.md R83). -/
def expand565 (v : U16) : RGB888 :=
  let r5 := (v >>> 11) &&& 0x1F
  let g6 := (v >>> 5) &&& 0x3F
  let b5 := v &&& 0x1F
  { r := ((r5 <<< 3) ||| (r5 >>> 2)).setWidth 8
    g := ((g6 <<< 2) ||| (g6 >>> 4)).setWidth 8
    b := ((b5 <<< 3) ||| (b5 >>> 2)).setWidth 8 }

/-- `Q(a, d)` (41_decoder.md R85). -/
def scaleDiv (m : Rounding) (a d : Nat) : Nat :=
  match m with
  | .floor   => a / d
  | .nearest => (2 * a + d) / (2 * d)

/-- `Expand332` (30_encoding.md R50, 41_decoder.md R84). -/
def expand332 (m : Rounding) (v : Byte) : RGB888 :=
  let r3 := ((v >>> 5) &&& 0x7).toNat
  let g3 := ((v >>> 2) &&& 0x7).toNat
  let b2 := (v &&& 0x3).toNat
  { r := BitVec.ofNat 8 (scaleDiv m (r3 * 255) 7)
    g := BitVec.ofNat 8 (scaleDiv m (g3 * 255) 7)
    b := BitVec.ofNat 8 (scaleDiv m (b2 * 255) 3) }

/-- Raw 16-bit pixel `i`: payload bytes `2i` and `2i+1`, little-endian when `SWAP16 = 0`, big-endian when it is 1
(30_encoding.md R47, 10_state.md R11). -/
def rawWord (swap16 : Bool) (p : List Byte) (i : Nat) : U16 :=
  if swap16 then be16At p (2 * i) else le16At p (2 * i)

/-- The first `n` pixels of a raw 16-bit payload (41_decoder.md R87). -/
def unpack16 (swap16 : Bool) (n : Nat) (p : List Byte) : List RGB888 :=
  (List.range n).map (fun i => expand565 (rawWord swap16 p i))

/-- The first `n` pixels of an RGB332 byte stream (41_decoder.md R88, R94). -/
def unpack8 (m : Rounding) (n : Nat) (p : List Byte) : List RGB888 :=
  (List.range n).map (fun i => expand332 m (byteAt p i))

/-- `Runs(P)`: each pair `(count, value)` gives `count` copies of `value`; a lone final byte gives nothing (41_decoder.md R89). -/
def runs : List Byte → List Byte
  | count :: value :: rest => List.replicate count.toNat value ++ runs rest
  | [_]                    => []
  | []                     => []

/-- What the decoder is given (41_decoder.md R80). -/
structure Record where
  fmt     : Fmt
  x1      : U16
  y1      : U16
  x2      : U16
  y2      : U16
  dataLen : U32
  payload : List Byte
  total   : Nat
  seq     : Nat
  deriving DecidableEq, Repr

/-- What an arm of `Decode` answers: all the pixels, or a code (41_decoder.md R98). -/
inductive Unpacked where
  | pixels (p : List RGB888)
  | drop (code : DiagCode)
  deriving DecidableEq, Repr

/-- What `Decode` answers: one Region, or one code (41_decoder.md R80, R82). -/
inductive DecodeResult where
  | region (r : Region)
  | drop (code : DiagCode)
  deriving DecidableEq, Repr

/-- The RAW16 arm (41_decoder.md R87): a payload of `n` bytes for `px` pixels. A longer payload is accepted (R96). -/
def decodeRaw16 (swap16 : Bool) (px n : Nat) (p : List Byte) : Unpacked :=
  if n < 2 * px then .drop .decShort
  else .pixels (unpack16 swap16 px p)

/-- The RAW8 arm (41_decoder.md R88). -/
def decodeRaw8 (m : Rounding) (px n : Nat) (p : List Byte) : Unpacked :=
  if n < px then .drop .decShort
  else .pixels (unpack8 m px p)

/-- The RLE8 arm (41_decoder.md R91 to R94): odd length, then short expansion, then overrun. -/
def decodeRle8 (c : Config) (px n : Nat) (p : List Byte) : Unpacked :=
  if n % 2 = 1 ∧ c.rleOddTail = .fail then .drop .decRleOdd
  else if (runs p).length < px then .drop .decRleShort
  else if px < (runs p).length ∧ c.rleOverrun = .fail then .drop .decRleLong
  else .pixels (unpack8 c.div332 px (runs p))

/-- The RLE16 arm: an unsupported variant, whatever its payload (41_decoder.md R95, C1). -/
def decodeRle16 : Unpacked := .drop .decUnsupported

/-- Whether the rectangle is not one: `x2 < x1` or `y2 < y1` (41_decoder.md R81). -/
def badRect (x1 y1 x2 y2 : U16) : Bool :=
  decide (x2.toNat < x1.toNat) || decide (y2.toNat < y1.toNat)

/-- The arm of 41_decoder.md R80 that the record's format selects (R99: only `fmt` selects it). -/
def unpackRecord (c : Config) (swap16 : Bool) (rec : Record) : Unpacked :=
  let px := extent rec.x1 rec.x2 * extent rec.y1 rec.y2
  match rec.fmt with
  | .raw16 => decodeRaw16 swap16 px rec.dataLen.toNat rec.payload
  | .raw8  => decodeRaw8 c.div332 px rec.dataLen.toNat rec.payload
  | .rle8  => decodeRle8 c px rec.dataLen.toNat rec.payload
  | .rle16 => decodeRle16

/-- `Decode(rec)` (41_decoder.md R80) with `swap16` the value sampled at its start (10_state.md R12). -/
def decodeRecord (c : Config) (swap16 : Bool) (rec : Record) : DecodeResult :=
  if badRect rec.x1 rec.y1 rec.x2 rec.y2 then .drop .decBadRect
  else
    match unpackRecord c swap16 rec with
    | .drop code => .drop code
    | .pixels p  =>
      .region { fmt := rec.fmt, x := rec.x1, y := rec.y1, w := extent rec.x1 rec.x2, h := extent rec.y1 rec.y2,
                pixels := p, seq := rec.seq }

/-- `INFO_MAP(x1, y1, x2, y2, data_len) = (width, height, bpp)` (10_state.md R15; log 3). The test map is that of 30_encoding.md
R56, in exact integer arithmetic (00_scope.md section 5): with `x2 < x1` the width is 0 or negative. -/
def applyInfoMap (m : InfoMap) (i : Info) : Int × Int × Int :=
  match m with
  | .device  => Config.deviceInfoMap i.x1 i.y1 i.x2 i.y2 i.dataLen
  | .testMap => ((i.x2.toNat : Int) - i.x1.toNat + 1, (i.y2.toNat : Int) - i.y1.toNat + 1, i.dataLen.toNat)

end Sys2Proof.Machine
end

