-- ==== Sys2Proof/Machine/Ops.lean ====
section
/-! DEFINITION. The named operations over BUF, OUT, the queues and the canvas memory; raising the overflow fault and the
reset that clears it. -/
namespace Sys2Proof.Machine

/-! ### The canvas memory -/

/-- Read a pixel: an unlisted address reads `(0,0,0)` (48_downstream.md R112). -/
def Memory.read (m : Memory) (a : Nat) : RGB888 :=
  match m with
  | []            => RGB888.black
  | (k, v) :: rest => if k = a then v else Memory.read rest a

/-- Write a pixel and keep the canonical form: writing `(0,0,0)` removes the entry. -/
def Memory.write (m : Memory) (a : Nat) (v : RGB888) : Memory :=
  match m with
  | []             => if v = RGB888.black then [] else [(a, v)]
  | (k, x) :: rest =>
    if a < k then (if v = RGB888.black then (k, x) :: rest else (a, v) :: (k, x) :: rest)
    else if a = k then (if v = RGB888.black then rest else (a, v) :: rest)
    else (k, x) :: Memory.write rest a v

/-- Whether (X, Y) lies in `[0, width) × [0, height)` (48_downstream.md R116). -/
def Surface.inside (f : Surface) (x y : Nat) : Bool := decide ((x : Int) < f.width) && decide ((y : Int) < f.height)

/-- The address of the pixel (X, Y) of a surface that has any. -/
def Surface.addr (f : Surface) (x y : Nat) : Nat := y * f.width.toNat + x

/-- How many pixels a surface has: none where a size is 0 or negative. Every pixel's address is below it. -/
def Surface.area (f : Surface) : Nat := f.width.toNat * f.height.toNat

/-- The pixel (X, Y) of a surface. -/
def Surface.pixelAt (f : Surface) (x y : Nat) : RGB888 := f.pixels.read (f.addr x y)

/-- Write one pixel, if it lies inside (48_downstream.md R116: every other one is skipped). -/
def Surface.put (f : Surface) (x y : Nat) (v : RGB888) : Surface :=
  if f.inside x y then { f with pixels := f.pixels.write (f.addr x y) v } else f

/-! ### BUF, POS, OUT -/

/-- `remove(k)` of 40_framer.md R58: `BUF <- drop(k, BUF); POS <- POS + k`. -/
def State.remove (k : Nat) (s : State) : State :=
  { s with buf := s.buf.drop k, pos := s.pos + k }

/-- A push to `Q`: a full queue first loses its oldest entry (48_downstream.md R108). -/
def pushRegion (qcap : Nat) (q : List Region) (r : Region) : List Region :=
  (if qcap ≤ q.length then q.drop 1 else q) ++ [r]

/-- A pop of `Q`: the oldest entry, or nothing (48_downstream.md R109). -/
def popRegion (q : List Region) : Option (Region × List Region) :=
  match q with
  | []        => none
  | r :: rest => some (r, rest)

/-- The `out` port's path of an event into `Q` (48_downstream.md R107). -/
def routeRegion (qcap : Nat) (q : List Region) : Event → List Region
  | .info _   => q
  | .region r => pushRegion qcap q r
  | .diag _ _ => q

/-- The `out` port's path of an event into `PI` (48_downstream.md R110). -/
def routeInfo (pending : List Info) : Event → List Info
  | .info i   => pending ++ [i]
  | .region _ => pending
  | .diag _ _ => pending

/-- `emit E`: append to `OUT` (10_state.md R14); a Region also enters `Q` and an Info enters `PI` (48_downstream.md R107, R110; log 21). -/
def State.emit (e : Event) (s : State) : State :=
  { s with
    out := s.out ++ [e]
    queue := routeRegion s.cfg.qcap s.queue e
    pendingInfo := routeInfo s.pendingInfo e }

/-- Raise a framing or decode error: one Diag in `OUT`, nothing saved, no mode switched, no transfer (60_exceptions.md R130). -/
def State.emitDiag (code : DiagCode) (n : Nat) (s : State) : State := s.emit (.diag code n)

/-! ### Where the pass goes on -/

/-- `goto L`. -/
def State.gotoL (s : State) : State := { s with phase := .atL }

/-- `goto A`. -/
def State.gotoA (s : State) : State := { s with phase := .atA }

/-- `stop`: the pass ends. From here to the next header parse `HR` is unspecified (10_state.md R10): a free value (log 5). -/
def State.stopPass (s : State) : State :=
  { s with phase := .idle, hr := Config.freeHeader s.freeCtr, freeCtr := s.freeCtr + 1 }

/-- Step D: load all seven fields of `HR` at once (10_state.md R9, 40_framer.md R61). -/
def State.loadHR (h : Header) (s : State) : State := { s with hr := h }

/-! ### The overflow fault and the resets -/

/-- Taking the overflow fault for a refused chunk of `n` bytes: `OVF <- 1` and `Diag(OVERFLOW, n)`; nothing is appended
and no pass runs (60_exceptions.md R133). -/
def State.raiseOverflow (n : Nat) (s : State) : State :=
  { s with ovf := true }.emitDiag .overflow n

/-- The consumer at a FULL reset: the spec is silent, and both readings are admitted (log 8). -/
def State.consumerOnFull (s : State) : State :=
  match s.cfg.consumerOnFull with
  | .keep    => s
  | .restart => { s with queue := [], pendingInfo := [], canvas := .uninitialized, shown := none }

/-- A FULL reset (70_reset_and_hazards.md R144), the only way out of the overflow fault (10_state.md R16).
`HR` is left unspecified: a free value (log 5). -/
def State.fullReset (s : State) : State :=
  { s with
    buf := []
    pos := 0
    posBase := 0
    ingested := 0
    swap16 := s.cfg.swap16Reset
    infoSeq := 0
    out := []
    ovf := false
    phase := .idle
    hr := Config.freeHeader s.freeCtr
    freeCtr := s.freeCtr + 1 }.consumerOnFull

/-- `POS` after a RECONNECT that empties `BUF`, in both readings: kept (70_reset_and_hazards.md R146), or counting from that
reset on (10_state.md R8) (log 9). -/
def posAfterClear (c : PosOnClear) (pos : Nat) : Nat :=
  match c with
  | .keep    => pos
  | .restart => 0

/-- A RECONNECT that empties `BUF`: R8's counts begin again (log 9). -/
def State.clearBuf (s : State) : State :=
  { s with
    buf := []
    pos := posAfterClear s.cfg.posOnClear s.pos
    posBase := posAfterClear s.cfg.posOnClear s.pos
    ingested := 0 }

/-- A RECONNECT reset (70_reset_and_hazards.md R146), and the consumer empties `Q` (48_downstream.md R120; log 10). -/
def State.reconnect (s : State) : State :=
  if s.cfg.reconnectClearsBuffer then { s with queue := [] }.clearBuf else { s with queue := [] }

/-! ### Steps E to H of a FRAME -/

/-- Step H: decode one validated record and append its one event (40_framer.md R58, R78; 41_decoder.md R80). `SWAP16` is
sampled here (10_state.md R12). -/
def State.decodeAndEmit (rec : Record) (s : State) : State :=
  match decodeRecord s.cfg s.swap16 rec with
  | .region r  => s.emit (.region r)
  | .drop code => s.emitDiag code rec.total

/-- Steps G and H for the bytes that step F has copied and removed (40_framer.md R66). -/
def State.validateAndDecode (rec : Record) (endm : U32) (s : State) : State :=
  if endm ≠ s.cfg.endMarker then s.emitDiag .badEnd rec.total
  else if rec.dataLen = 0 then s.emitDiag .zeroLen rec.total
  else s.decodeAndEmit rec

/-- The record whose header is at `BUF[0]` (step F of 40_framer.md R58). -/
def State.frameRecord (fmt : Fmt) (x1 y1 x2 y2 : U16) (dataLen : U32) (s : State) : Record where
  fmt     := fmt
  x1      := x1
  y1      := y1
  x2      := x2
  y2      := y2
  dataLen := dataLen
  payload := (s.buf.drop headerSize).take dataLen.toNat
  total   := recordLength dataLen
  seq     := s.infoSeq

/-- The end marker of the record whose header is at `BUF[0]` (20_memory.md R27). -/
def State.frameEnd (dataLen : U32) (s : State) : U32 := le32At s.buf (headerSize + dataLen.toNat)

/-- Steps E to H of 40_framer.md R58: wait for `total` bytes (R64), or copy and remove them (R65), validate (R66), decode,
and go on at L. -/
def runFrame (fmt : Fmt) (x1 y1 x2 y2 : U16) (dataLen : U32) (s : State) : State :=
  if s.buf.length < recordLength dataLen then s.stopPass
  else
    ((s.remove (recordLength dataLen)).validateAndDecode
      (s.frameRecord fmt x1 y1 x2 y2 dataLen) (s.frameEnd dataLen)).gotoL

end Sys2Proof.Machine
end

