-- ==== Sys2Proof/Machine/Consumer.lean ====
section
/-! DEFINITION. The consumer: applying an Info, writing a region, the tick, the loss of connection (48_downstream.md). -/
namespace Sys2Proof.Machine

/-- The surface an Info allocates (48_downstream.md R111, R112). -/
def allocate (dims : Int × Int × Int) (seq : Nat) : Surface where
  width    := dims.1
  height   := dims.2.1
  bpp      := dims.2.2
  pixels   := []
  allocSeq := seq

/-- Applying an Info event to the canvas (48_downstream.md R111): new dimensions allocate, equal dimensions only set `bpp`. -/
def applyInfo (c : Config) (canvas : Canvas) (i : Info) : Canvas :=
  match canvas with
  | .uninitialized => .sized (allocate (applyInfoMap c.infoMap i) i.seq)
  | .sized f =>
    if (applyInfoMap c.infoMap i).1 ≠ f.width ∨ (applyInfoMap c.infoMap i).2.1 ≠ f.height then
      .sized (allocate (applyInfoMap c.infoMap i) i.seq)
    else .sized { f with bpp := (applyInfoMap c.infoMap i).2.2 }

/-- Whether a region is stale for a surface (48_downstream.md R115). -/
def stale (f : Surface) (r : Region) : Bool := decide (r.seq < f.allocSeq)

/-- The canvas coordinates of pixel `i` of a region (41_decoder.md R86). -/
def pixelTarget (r : Region) (i : Nat) : Nat × Nat := (r.x.toNat + i % r.w, r.y.toNat + i / r.w)

/-- Write the pixels of a list that stand from index `i` on, in order (48_downstream.md R116, R118). -/
def putPixels (r : Region) (f : Surface) (i : Nat) : List RGB888 → Surface
  | []      => f
  | v :: vs => putPixels r (f.put (pixelTarget r i).1 (pixelTarget r i).2 v) (i + 1) vs

/-- Write a region that is not dropped: every `i < R.w * R.h` whose target is inside (48_downstream.md R116). -/
def blit (r : Region) (f : Surface) : Surface := putPixels r f 0 (r.pixels.take (r.w * r.h))

/-- A region popped by the tick (48_downstream.md R115 to R117). -/
def writeRegion (c : Config) (canvas : Canvas) (r : Region) : Canvas :=
  match canvas with
  | .uninitialized => .uninitialized
  | .sized f =>
    if stale f r ∧ c.stalePolicy = .drop then .sized f
    else .sized (blit r f)

/-- Step 1 of the tick: apply every pending Info in order and empty `PI` (48_downstream.md R113). -/
def State.applyPending (s : State) : State :=
  { s with canvas := s.pendingInfo.foldl (applyInfo s.cfg) s.canvas, pendingInfo := [] }

/-- Step 2 of the tick: pop `n` entries, writing each (48_downstream.md R109, R113). -/
def drainQueue : Nat → State → State
  | 0, s     => s
  | n + 1, s =>
    match popRegion s.queue with
    | none           => s
    | some (r, rest) => drainQueue n { s with queue := rest, canvas := writeRegion s.cfg s.canvas r }

/-- Step 3 of the tick: present the canvas (48_downstream.md R113; log 19). -/
def State.present (s : State) : State := { s with shown := some s.canvas }

/-- The consumer's tick (48_downstream.md R113). -/
def tick (s : State) : State :=
  (drainQueue s.queue.length s.applyPending).present

/-- Every pixel `(0,0,0)`. -/
def blankCanvas : Canvas → Canvas
  | .uninitialized => .uninitialized
  | .sized f       => .sized { f with pixels := [] }

/-- Loss of connection: the canvas keeps its pixels or is set to all `(0,0,0)` (48_downstream.md R121; log 11, log 18). -/
def loseConnection (s : State) : State :=
  match s.cfg.disconnectCanvas with
  | .retain => s
  | .blank  => { s with canvas := blankCanvas s.canvas }

end Sys2Proof.Machine
end

