-- ==== Sys2Proof/Machine/FrameCmd.lean ====
section
/-! DEFINITION. The meanings of the four FRAME commands (40_framer.md R68 to R71). -/
namespace Sys2Proof.Machine

/-- FRAME_RAW16 (40_framer.md R68, 41_decoder.md R87). -/
def execFrameRaw16 (x1 y1 x2 y2 : U16) (dataLen : U32) (s : State) : Host.Outcome State Fault Refusal :=
  .next (runFrame .raw16 x1 y1 x2 y2 dataLen s)

/-- FRAME_RLE16 (40_framer.md R69, 41_decoder.md R95). -/
def execFrameRle16 (x1 y1 x2 y2 : U16) (dataLen : U32) (s : State) : Host.Outcome State Fault Refusal :=
  .next (runFrame .rle16 x1 y1 x2 y2 dataLen s)

/-- FRAME_RAW8 (40_framer.md R70, 41_decoder.md R88). -/
def execFrameRaw8 (x1 y1 x2 y2 : U16) (dataLen : U32) (s : State) : Host.Outcome State Fault Refusal :=
  .next (runFrame .raw8 x1 y1 x2 y2 dataLen s)

/-- FRAME_RLE8 (40_framer.md R71, 41_decoder.md R94). -/
def execFrameRle8 (x1 y1 x2 y2 : U16) (dataLen : U32) (s : State) : Host.Outcome State Fault Refusal :=
  .next (runFrame .rle8 x1 y1 x2 y2 dataLen s)

end Sys2Proof.Machine
end

