-- ==== Sys2Proof/Machine/InfoCmd.lean ====
section
/-! DEFINITION. The meaning of INFO (40_framer.md R67). -/
namespace Sys2Proof.Machine

/-- INFO: count it, emit the raw fields with the new count, consume the 17 header bytes, go on at L. `data_len` is no length here. -/
def execInfo (x1 y1 x2 y2 : U16) (dataLen : U32) (s : State) : Host.Outcome State Fault Refusal :=
  let s1 := { s with infoSeq := s.infoSeq + 1 }
  let s2 := s1.emit (.info { x1 := x1, y1 := y1, x2 := x2, y2 := y2, dataLen := dataLen, seq := s1.infoSeq })
  .next (s2.remove headerSize).gotoL

end Sys2Proof.Machine
end

