-- ==== Sys2Proof/Machine/UnknownCmd.lean ====
section
/-! DEFINITION. The meaning of an unknown command (40_framer.md R72). -/
namespace Sys2Proof.Machine

/-- UNKNOWN: discard the byte at `BUF[0]`, report it, and scan again from step A. Whatever the `cmd` byte is, the effect is the same. -/
def execUnknown (_cmd : Byte) (s : State) : Host.Outcome State Fault Refusal :=
  .next ((s.remove 1).emitDiag .unknownCmd 1).gotoA

end Sys2Proof.Machine
end

