-- ==== Sys2Proof/Machine/Dispatch.lean ====
section
/-! DEFINITION. One arm per constructor of Instr. -/
namespace Sys2Proof.Machine

def exec (i : Instr) (s : State) : Host.Outcome State Fault Refusal :=
  match i with
  | .info x1 y1 x2 y2 n => Sys2Proof.Machine.execInfo x1 y1 x2 y2 n s
  | .frameRaw16 x1 y1 x2 y2 n => Sys2Proof.Machine.execFrameRaw16 x1 y1 x2 y2 n s
  | .frameRle16 x1 y1 x2 y2 n => Sys2Proof.Machine.execFrameRle16 x1 y1 x2 y2 n s
  | .frameRaw8 x1 y1 x2 y2 n => Sys2Proof.Machine.execFrameRaw8 x1 y1 x2 y2 n s
  | .frameRle8 x1 y1 x2 y2 n => Sys2Proof.Machine.execFrameRle8 x1 y1 x2 y2 n s
  | .unknown cmd => Sys2Proof.Machine.execUnknown cmd s

end Sys2Proof.Machine
end

