-- ==== Sys2Proof/Machine/Framer.lean ====
section
/-! DEFINITION. Steps L and A to D of the pass (40_framer.md R58): finding the next header, which is the block's fetch. -/
namespace Sys2Proof.Machine

/-- The lowest offset of `0 .. len-4` at which the marker is present (20_memory.md R26, 40_framer.md R59). -/
def findMarker (m : U32) (b : List Byte) : Option Nat :=
  (List.range (b.length - 3)).find? (fun p => decide (le32At b p = m))

/-- What steps L to D come to: the pass has stopped, or a header is at `BUF[0]` and in `HR`, and its command is to be run. -/
inductive Fetched where
  | stopped (s : State)
  | command (i : Instr) (s : State)
  deriving DecidableEq, Repr

/-- No marker: discard all but the last 3 bytes, report them, stop (40_framer.md R59). -/
def State.discardAll (s : State) : State :=
  ((s.remove (s.buf.length - 3)).emitDiag .noSync (s.buf.length - 3)).stopPass

/-- Step B: discard the `p` bytes before the marker, and report them when there are any (40_framer.md R60). -/
def State.discardBefore (p : Nat) (s : State) : State :=
  if 0 < p then (s.remove p).emitDiag .preSync p else s

/-- Steps C and D: stop without a whole header, or parse it into `HR` and dispatch on it (40_framer.md R61, R62). -/
def parseAndDispatch (s : State) : Fetched :=
  if s.buf.length < headerSize then .stopped s.stopPass
  else .command (dispatch s.cfg (parseHeader s.buf)) (s.loadHR (parseHeader s.buf))

/-- Steps A to D of 40_framer.md R58. -/
def scanFrom (s : State) : Fetched :=
  match findMarker s.cfg.marker s.buf with
  | none   => .stopped s.discardAll
  | some p => parseAndDispatch (s.discardBefore p)

/-- The loop head L: with fewer than 17 bytes the pass stops, else it goes to A. `goto A` skips this test (D19). -/
def fetch (s : State) : Fetched :=
  if s.phase = .atL ∧ s.buf.length < headerSize then .stopped s.stopPass
  else scanFrom s

/-- The bytes behind a header that make its record whole: for a FRAME, a payload of zeros and the end marker (log 14). -/
def recordTail (c : Config) : Instr → List Byte
  | .info _ _ _ _ _       => []
  | .frameRaw16 _ _ _ _ n => List.replicate n.toNat 0 ++ bytes32 c.endMarker
  | .frameRle16 _ _ _ _ n => List.replicate n.toNat 0 ++ bytes32 c.endMarker
  | .frameRaw8 _ _ _ _ n  => List.replicate n.toNat 0 ++ bytes32 c.endMarker
  | .frameRle8 _ _ _ _ n  => List.replicate n.toNat 0 ++ bytes32 c.endMarker
  | .unknown _            => []

/-- `BUF` holding the instruction of a table word, whole (log 14). -/
def tableRecord (c : Config) (nbits w : Nat) : List Byte :=
  match decode c (tableBytes c nbits w) with
  | .instr i _ => tableBytes c nbits w ++ recordTail c i
  | .truncated => tableBytes c nbits w
  | .badMarker => tableBytes c nbits w

end Sys2Proof.Machine
end

