-- ==== Sys2Proof/Machine/Ports.lean ====
section
/-! DEFINITION. The transactions on the block's ports (10_state.md section 1). -/
namespace Sys2Proof.Machine

/-- `in`: append the chunk and begin a pass (10_state.md R5), or take the overflow fault (60_exceptions.md R133). -/
def acceptChunk (chunk : List Byte) (s : State) : State :=
  if ovfAfter s chunk.length then s.raiseOverflow chunk.length
  else { s with buf := s.buf ++ chunk, ingested := s.ingested + chunk.length, phase := .atL }

/-- `ctrl.swap16` (10_state.md R11). It is taken with `OVF` set as well (60_exceptions.md R133). -/
def writeSwap16 (v : Bool) (s : State) : State := { s with swap16 := v }

/-- `rst` (70_reset_and_hazards.md R143 to R146). -/
def resetBy (kind : ResetKind) (s : State) : State :=
  match kind with
  | .full      => s.fullReset
  | .liveness  => s
  | .reconnect => s.reconnect

/-- One transaction, up to the beginning of its pass. -/
def transact (t : Transaction) (s : State) : State :=
  match t with
  | .chunk first rest => acceptChunk (first :: rest) s
  | .ctrl v           => writeSwap16 v s
  | .rst kind         => resetBy kind s

/-- The block between passes takes the next transaction; with none offered it is idle with its state held (60_exceptions.md R142). -/
def takeInput (s : State) : State :=
  match s.inputs with
  | []        => s
  | t :: rest => transact t { s with inputs := rest }

end Sys2Proof.Machine
end

