-- ==== Sys2Proof/Machine/Step.lean ====
section
/-! DEFINITION. One step: the consumer's turn, or the block's; the block takes a transaction between passes and runs one
iteration of the pass within one (40_framer.md R58; log 1). -/
namespace Sys2Proof.Machine

/-- One iteration of the pass: fetch a header and run its command, or stop. -/
def passStep (s : State) : Host.Outcome State Fault Refusal :=
  match fetch s with
  | .stopped t   => .next t
  | .command i t => exec i t

/-- The block's step. No transaction is taken while a pass runs (20_memory.md R32). -/
def blockStep (s : State) : Host.Outcome State Fault Refusal :=
  match s.phase with
  | .idle => .next (takeInput s)
  | .atL  => passStep s
  | .atA  => passStep s

/-- The machine's step: of the agent whose turn it is (60_exceptions.md R135). -/
def step (s : State) : Host.Outcome State Fault Refusal :=
  match s.turns with
  | []                     => blockStep s
  | .block :: rest          => blockStep { s with turns := rest }
  | .tick :: rest           => .next (tick { s with turns := rest })
  | .connectionLost :: rest => .next (loseConnection { s with turns := rest })

/-- `s` with the instruction of a table word at the front of `BUF`, a pass at its loop head, and the block's turn next (log 14). -/
def State.withFetchWord (s : State) (nbits w : Nat) : State :=
  { s with
    buf := tableRecord s.cfg nbits w
    phase := .atL
    turns := .block :: s.turns }

end Sys2Proof.Machine
end

