-- ==== Sys2Proof/Safety.lean ====
section
/-! DEFINITION. Runs, what is observed of a run, and what counts as a good one (70_reset_and_hazards.md R158), and the
invariant of the machine. -/
namespace Sys2Proof.Machine

/-- `n` steps of the machine lead from `s` to `t`. -/
def Reaches (n : Nat) (s t : State) : Prop := Host.Core.run Sys2Proof.core n s = .next t

/-- The block has the next turn: it is listed, or no turn is listed. -/
def BlockTurn (s : State) : Prop := s.turns = [] ∨ s.turns.head? = some .block

/-- `s` with its next turn taken off the list. -/
def State.turnTaken (s : State) : State := { s with turns := s.turns.tail }

/-- `s` with transactions offered, before any other. -/
def State.offered (ts : List Transaction) (s : State) : State := { s with inputs := ts ++ s.inputs }

/-- How many bytes a transaction brings. -/
def Transaction.size : Transaction → Nat
  | .chunk _ rest => rest.length + 1
  | .ctrl _       => 0
  | .rst _        => 0

/-- An event of the `out` port: Info or Region (10_state.md R14). -/
def Event.onOut : Event → Bool
  | .info _   => true
  | .region _ => true
  | .diag _ _ => false

/-- What the `out` port carries: the Info and Region subsequence of `OUT` (10_state.md R14). -/
def outPort (l : List Event) : List Event := l.filter Event.onOut

/-- What the `diag` port carries: the Diag subsequence of `OUT` (10_state.md R14). -/
def diagPort (l : List Event) : List Event := l.filter (fun e => !e.onOut)

/-- The observation of a run (70_reset_and_hazards.md R158). -/
structure Observation where
  out : List Event
  buf : List Byte
  ovf : Bool
  deriving DecidableEq, Repr

/-- What is observed at a state. -/
def observe (s : State) : Observation := ⟨s.out, s.buf, s.ovf⟩

/-- A FRAME header stands at `BUF[0]` and its record is not whole: stop state S4 (40_framer.md R79). -/
def Awaiting (s : State) : Prop :=
  ∃ fmt x1 y1 x2 y2 n rest, decode s.cfg s.buf = .instr (Fmt.instr fmt x1 y1 x2 y2 n) rest ∧ s.buf.length < recordLength n

/-- A buffer at which every pass stops at once: S1 to S4 (40_framer.md R79). -/
def Quiescent (s : State) : Prop := s.buf.length < headerSize ∨ Awaiting s

/-- A good end of a run (70_reset_and_hazards.md R158, 60_exceptions.md R134): between passes, every offered transaction taken, no overflow. -/
def GoodEnd (s : State) : Prop := s.phase = .idle ∧ s.inputs = [] ∧ s.ovf = false

/-- A region as the decoder makes it: a rectangle of u16 coordinates and exactly `w*h` pixels (30_encoding.md R46, 41_decoder.md R97). -/
def Region.whole (r : Region) : Prop :=
  0 < r.w ∧ 0 < r.h ∧ r.x.toNat + r.w ≤ 65536 ∧ r.y.toNat + r.h ≤ 65536 ∧ r.pixels.length = r.w * r.h

/-- The canvas memory is canonical and lists only pixels inside the canvas (48_downstream.md R116). -/
def Canvas.wf : Canvas → Prop
  | .uninitialized => True
  | .sized f       => f.pixels.wf ∧ ∀ c ∈ f.pixels, c.1 < f.area

/-- The `seq` numbers of the Info events of a log, in order. -/
def infoSeqs : List Event → List Nat
  | []                => []
  | .info i :: rest   => i.seq :: infoSeqs rest
  | .region _ :: rest => infoSeqs rest
  | .diag _ _ :: rest => infoSeqs rest

/-- Every Region of a log carries the count of the Infos before it (10_state.md R13), `k` Infos having gone before the log. -/
def regionSeqs (k : Nat) : List Event → Prop
  | []                => True
  | .info _ :: rest   => regionSeqs (k + 1) rest
  | .region r :: rest => r.seq = k ∧ regionSeqs k rest
  | .diag _ _ :: rest => regionSeqs k rest

/-- The invariant of the machine: it holds at reset and every step keeps it. -/
structure Inv (s : State) : Prop where
  /-- `len(BUF) ≤ BUF_CAP` when it is finite (10_state.md R7). -/
  bufBounded : ∀ cap, s.cfg.bufCap = some cap → s.buf.length ≤ cap
  /-- `POS + len(BUF)` is what was ingested since the last reset that emptied `BUF` (10_state.md R8), counted from `POS` at that reset. -/
  posCounts : s.pos + s.buf.length = s.posBase + s.ingested
  /-- `POS` itself is R8's count, unless a RECONNECT may empty `BUF` and keep it (log 9). -/
  posFromReset : s.cfg.reconnectClearsBuffer = false ∨ s.cfg.posOnClear = .restart → s.posBase = 0
  /-- With `BUF_CAP` infinite, `OVF` is 0 (10_state.md R16). -/
  ovfNeedsCap : s.cfg.bufCap = none → s.ovf = false
  /-- With `OVF = 1` no pass runs (60_exceptions.md R133). -/
  ovfIdle : s.ovf = true → s.phase = .idle
  /-- Whenever step A runs from an unknown command, `len(BUF) ≥ 16` (40_framer.md R59). -/
  enoughAtA : s.phase = .atA → 16 ≤ s.buf.length
  /-- Between passes the buffer is one at which a pass stops (40_framer.md R79). -/
  idleQuiescent : s.phase = .idle → Quiescent s
  /-- `Q` holds at most `QCAP` regions (48_downstream.md R107). -/
  queueBounded : s.queue.length ≤ s.cfg.qcap
  /-- Every region in `Q` has its `w*h` pixels (10_state.md R14). -/
  queueWhole : ∀ r ∈ s.queue, r.whole
  /-- Every region in `OUT` has its `w*h` pixels (10_state.md R14). -/
  outWhole : ∀ r, Event.region r ∈ s.out → r.whole
  /-- The Infos of `OUT` are numbered 1, 2, … `INFO_SEQ` (10_state.md R13). -/
  infosNumbered : infoSeqs s.out = List.range' 1 s.infoSeq
  /-- Every Region of `OUT` carries the number of the last Info before it (10_state.md R13). -/
  regionsNumbered : regionSeqs 0 s.out
  /-- The canvas memory is canonical, with no pixel outside the canvas (48_downstream.md R116). -/
  canvasWf : s.canvas.wf
  /-- The presented canvas is one, too. -/
  shownWf : ∀ c, s.shown = some c → c.wf

end Sys2Proof.Machine
end

