-- ==== Sys2Proof/Certificates/Slice0/Obligations.lean ====
section
/-! DEFINITION. The statements for the provers. A statement about `exec` gives the whole next state as an update of the
state before, so that it says the result, that the command completes, and what it leaves unchanged. Sizes and offsets are
written as the spec's numbers, not as the model's names. -/

open Sys2Proof Sys2Proof.Machine

/-! ### Encoding -/

/-- Words written out from 30_encoding.md R41 and R45 and the vectors of 95_test_vectors.md decode to what they stand for.
It rests on the test instantiation of R56 (log 2), which is the spec's own choice. -/
def Obligations.SpecHeaderWordsDecode : Prop :=
  decode Config.test [0x4D, 0x41, 0x52, 0x4B, 0x01, 0x00, 0x00, 0x00, 0x00, 0xEF, 0x00, 0xEF, 0x00, 0x10, 0x00, 0x00, 0x00]
      = .instr (.info 0 0 239 239 16) [] ∧
  decode Config.test [0x4D, 0x41, 0x52, 0x4B, 0x02, 0x34, 0x12, 0x78, 0x56, 0xBC, 0x9A, 0xF0, 0xDE, 0x04, 0x03, 0x02, 0x01]
      = .instr (.frameRaw16 0x1234 0x5678 0x9ABC 0xDEF0 0x01020304) [] ∧
  decode Config.test [0x4D, 0x41, 0x52, 0x4B, 0x03, 0x00, 0x00, 0x00, 0x00, 0x00, 0x00, 0x00, 0x00, 0x03, 0x00, 0x00, 0x00, 0x01]
      = .instr (.frameRle16 0 0 0 0 3) [0x01] ∧
  decode Config.test [0x4D, 0x41, 0x52, 0x4B, 0x04, 0x05, 0x00, 0x05, 0x00, 0x05, 0x00, 0x06, 0x00, 0x02, 0x00, 0x00, 0x00]
      = .instr (.frameRaw8 5 5 5 6 2) [] ∧
  decode Config.test [0x4D, 0x41, 0x52, 0x4B, 0x05, 0x00, 0x00, 0x00, 0x00, 0x01, 0x00, 0x01, 0x00, 0x04, 0x00, 0x00, 0x00]
      = .instr (.frameRle8 0 0 1 1 4) [] ∧
  decode Config.test [0x4D, 0x41, 0x52, 0x4B, 0x07, 0x00, 0x00, 0x00, 0x00, 0x00, 0x00, 0x00, 0x00, 0x00, 0x00, 0x00, 0x00]
      = .instr (.unknown 0x07) []

/-- Decode and encode agree: for every configuration and every well-formed instruction, at every value of every field
(30_encoding.md R41, R42, R45, R53). -/
def Obligations.DecodeEncodeRoundTrip : Prop :=
  ∀ (c : Config) (i : Instr) (rest : List Byte), i.wf c = true → decode c (encode c i ++ rest) = .instr i rest

/-- The other direction: no bit of a header is dropped, but for the twelve operand bytes of an unknown command, which has no
operands (40_framer.md R72); and every instruction the decoder answers is well-formed. -/
def Obligations.DecodedHeaderEncodesBack : Prop :=
  ∀ (c : Config) (b rest : List Byte) (i : Instr), decode c b = .instr i rest →
    i.wf c = true ∧ rest = b.drop 17 ∧ b.take 5 = (encode c i).take 5 ∧
    ((∀ k, i ≠ .unknown k) → b = encode c i ++ rest)

/-- The byte map of the header and its unsigned little-endian assembly, as numbers (30_encoding.md R41, R42). -/
def Obligations.HeaderFieldsAreLittleEndian : Prop :=
  ∀ b : List Byte,
    (parseHeader b).marker.toNat =
      (byteAt b 0).toNat + 256 * (byteAt b 1).toNat + 65536 * (byteAt b 2).toNat + 16777216 * (byteAt b 3).toNat ∧
    (parseHeader b).cmd.toNat = (byteAt b 4).toNat ∧
    (parseHeader b).x1.toNat = (byteAt b 5).toNat + 256 * (byteAt b 6).toNat ∧
    (parseHeader b).y1.toNat = (byteAt b 7).toNat + 256 * (byteAt b 8).toNat ∧
    (parseHeader b).x2.toNat = (byteAt b 9).toNat + 256 * (byteAt b 10).toNat ∧
    (parseHeader b).y2.toNat = (byteAt b 11).toNat + 256 * (byteAt b 12).toNat ∧
    (parseHeader b).dataLen.toNat =
      (byteAt b 13).toNat + 256 * (byteAt b 14).toNat + 65536 * (byteAt b 15).toNat + 16777216 * (byteAt b 16).toNat

/-- The dispatch reads only `HR.cmd`, and exactly one branch applies (40_framer.md R62). -/
def Obligations.DispatchSelectsByCmd : Prop :=
  ∀ (c : Config) (h : Header),
    (h.cmd = 0x01 → dispatch c h = .info h.x1 h.y1 h.x2 h.y2 h.dataLen) ∧
    (h.cmd = 0x02 → dispatch c h = .frameRaw16 h.x1 h.y1 h.x2 h.y2 h.dataLen) ∧
    (h.cmd = c.codes.rle16 → dispatch c h = .frameRle16 h.x1 h.y1 h.x2 h.y2 h.dataLen) ∧
    (h.cmd = c.codes.raw8 → dispatch c h = .frameRaw8 h.x1 h.y1 h.x2 h.y2 h.dataLen) ∧
    (h.cmd = c.codes.rle8 → dispatch c h = .frameRle8 h.x1 h.y1 h.x2 h.y2 h.dataLen) ∧
    (h.cmd ≠ 0x01 → h.cmd ≠ 0x02 → h.cmd ≠ c.codes.rle16 → h.cmd ≠ c.codes.raw8 → h.cmd ≠ c.codes.rle8 →
      dispatch c h = .unknown h.cmd)

/-- When a start marker is present, in both forms the rule gives (20_memory.md R26). -/
def Obligations.MarkerPresenceIsItsFourBytes : Prop :=
  ∀ (m : U32) (b : List Byte) (p : Nat),
    (p + 4 ≤ b.length ∧ le32At b p = m) ↔
      (b.drop p).take 4 = [m.extractLsb' 0 8, m.extractLsb' 8 8, m.extractLsb' 16 8, m.extractLsb' 24 8]

/-! ### The pass -/

/-- A step in a pass runs the instruction that the bytes at the front of `BUF` decode to, with the header loaded into `HR`
(40_framer.md R58 step D). -/
def Obligations.StepRunsTheDecodedInstruction : Prop :=
  ∀ (s : State) (i : Instr) (rest : List Byte), BlockTurn s → s.phase ≠ .idle → decode s.cfg s.buf = .instr i rest →
    step s = exec i { s with turns := s.turns.tail, hr := parseHeader s.buf }

/-- Steps A to D: the scan takes the lowest marker, discards what is before it, and parses a whole header; without a marker it
keeps the last 3 bytes; and step A always has at least 16 bytes (40_framer.md R59, R60, R61). -/
def Obligations.ScanTakesTheLowestMarker : Prop :=
  (∀ s : State, BlockTurn s → s.phase ≠ .idle → (s.phase = .atL → 17 ≤ s.buf.length) → 16 ≤ s.buf.length →
    ((∀ p, p + 4 ≤ s.buf.length → le32At s.buf p ≠ s.cfg.marker) →
      13 ≤ s.buf.length - 3 ∧
      ∃ hr, step s = .next { s with
        turns := s.turns.tail
        buf := s.buf.drop (s.buf.length - 3)
        pos := s.pos + (s.buf.length - 3)
        out := s.out ++ [.diag .noSync (s.buf.length - 3)]
        phase := .idle
        hr := hr
        freeCtr := s.freeCtr + 1 }) ∧
    (∀ p, p + 4 ≤ s.buf.length → le32At s.buf p = s.cfg.marker → (∀ q < p, le32At s.buf q ≠ s.cfg.marker) →
      (p + 17 ≤ s.buf.length →
        (parseHeader (s.buf.drop p)).marker = s.cfg.marker ∧
        step s = exec (dispatch s.cfg (parseHeader (s.buf.drop p))) { s with
          turns := s.turns.tail
          buf := s.buf.drop p
          pos := s.pos + p
          out := if 0 < p then s.out ++ [.diag .preSync p] else s.out
          hr := parseHeader (s.buf.drop p) }) ∧
      (s.buf.length < p + 17 →
        ∃ hr, step s = .next { s with
          turns := s.turns.tail
          buf := s.buf.drop p
          pos := s.pos + p
          out := if 0 < p then s.out ++ [.diag .preSync p] else s.out
          phase := .idle
          hr := hr
          freeCtr := s.freeCtr + 1 }))) ∧
  (∀ s t : State, BlockTurn s → s.phase ≠ .idle → step s = .next t → t.phase = .atA → 16 ≤ t.buf.length)

/-- The loop head L: with fewer than 17 bytes the pass stops and removes nothing (40_framer.md R58; stop state S1 of R79). -/
def Obligations.LoopHeadStopsBelowSeventeenBytes : Prop :=
  ∀ s : State, BlockTurn s → s.phase = .atL → s.buf.length < 17 →
    ∃ hr, step s = .next { s with turns := s.turns.tail, phase := .idle, hr := hr, freeCtr := s.freeCtr + 1 }

/-- Every pass stops, within one step more than the buffer has bytes; no transaction is taken meanwhile (40_framer.md R74, 20_memory.md R32). -/
def Obligations.EveryPassStops : Prop :=
  ∀ s : State, s.turns = [] → s.phase ≠ .idle →
    ∃ n t, n ≤ s.buf.length + 1 ∧ Reaches n s t ∧ t.phase = .idle ∧ t.inputs = s.inputs

/-- A pass stops only with fewer than 17 bytes left or with a FRAME header at `BUF[0]` whose record is not whole (40_framer.md R79). -/
def Obligations.PassStopsOnlyInAStopState : Prop :=
  ∀ s t : State, BlockTurn s → s.phase ≠ .idle → step s = .next t → t.phase = .idle →
    t.buf.length < 17 ∨
    ∃ fmt x1 y1 x2 y2 n rest, decode t.cfg t.buf = .instr (Fmt.instr fmt x1 y1 x2 y2 n) rest ∧ t.buf.length < 21 + n.toNat

/-- A pass run again with no new input removes nothing and emits nothing (20_memory.md R33). -/
def Obligations.PassIsIdempotent : Prop :=
  ∀ s t : State, BlockTurn s → s.phase ≠ .idle → step s = .next t → t.phase = .idle → t.turns = [] →
    ∃ u, step { t with phase := .atL } = .next u ∧ u.phase = .idle ∧ u.buf = t.buf ∧ u.pos = t.pos ∧ u.out = t.out ∧
      u.infoSeq = t.infoSeq

/-- Nothing is stuck: from every state every run goes on, for any number of steps (93_implementation_defined.md section 2). -/
def Obligations.EveryRunGoesOn : Prop :=
  ∀ (n : Nat) (s : State), ∃ t, Reaches n s t

/-- `BUF` grows at the back by an accepted chunk, shrinks from the front by as many bytes as `POS` advances, or is emptied by a
reset; nothing else happens to it, and no byte that stays is changed (10_state.md R6, R8, 20_memory.md R38). What `POS` becomes
where a RECONNECT empties `BUF` is the model's parameter: R146 keeps it, R8 counts anew (log 9). -/
def Obligations.BufferGrowsAtTheBackAndShrinksAtTheFront : Prop :=
  ∀ s t : State, step s = .next t →
    (∃ k, k ≤ s.buf.length ∧ t.buf = s.buf.drop k ∧ t.pos = s.pos + k ∧ t.ingested = s.ingested ∧ ∀ i, byteAt t.buf i = byteAt s.buf (k + i)) ∨
    (∃ first rest, s.phase = .idle ∧ s.inputs.head? = some (.chunk first rest) ∧
      t.buf = s.buf ++ first :: rest ∧ t.pos = s.pos ∧ t.ingested = s.ingested + (rest.length + 1)) ∨
    (s.phase = .idle ∧ s.inputs.head? = some (.rst .full) ∧ t.buf = [] ∧ t.pos = 0 ∧ t.ingested = 0) ∨
    (s.phase = .idle ∧ s.inputs.head? = some (.rst .reconnect) ∧ s.cfg.reconnectClearsBuffer = true ∧
      t.buf = [] ∧ t.ingested = 0 ∧ (s.cfg.posOnClear = .keep → t.pos = s.pos) ∧ (s.cfg.posOnClear = .restart → t.pos = 0))

/-- `OUT` is append-only: a step adds at most two events at its end, of which at most one is for the `out` port; only a FULL
reset empties it (10_state.md R14, 70_reset_and_hazards.md R144). The bound of two, and of one, rests on the pass of
40_framer.md R58 and on the model's choice that one step is one iteration of it (log 1, DESIGN CHOICE). -/
def Obligations.OutOnlyAppends : Prop :=
  ∀ s t : State, step s = .next t →
    (∃ new, t.out = s.out ++ new ∧ new.length ≤ 2 ∧ (outPort new).length ≤ 1) ∨
    (s.phase = .idle ∧ s.inputs.head? = some (.rst .full) ∧ t.out = [])

/-- No transaction is taken, and none is dropped, while a pass runs; between passes the block takes the next one (20_memory.md R32, R37). -/
def Obligations.TransactionsWaitForThePass : Prop :=
  ∀ s t : State, step s = .next t →
    (s.phase ≠ .idle ∨ ¬ BlockTurn s → t.inputs = s.inputs) ∧
    (s.phase = .idle → BlockTurn s → t.inputs = s.inputs.tail)

/-- Source property: one valid record, and fewer than 17 bytes after it (40_framer.md R76). -/
def Obligations.OneValidRecordIsDecodedOnce : Prop :=
  ∀ (s : State) (r : FrameRecord) (rest : List Byte), s.turns = [] → s.phase = .atL → r.valid s.cfg = true →
    s.buf = encodeRecord s.cfg r ++ rest → rest.length < 17 →
    ∃ t u, step s = .next t ∧ step t = .next u ∧ u.phase = .idle ∧
      t.out = (s.decodeAndEmit ⟨r.fmt, r.x1, r.y1, r.x2, r.y2, r.dataLen, r.payload, 21 + r.dataLen.toNat, s.infoSeq⟩).out ∧
      t.buf = rest ∧ t.pos = s.pos + (21 + r.dataLen.toNat) ∧
      u.out = t.out ∧ u.buf = rest ∧ u.pos = t.pos

/-- Source property: `k` garbage bytes, with no marker occurrence below offset `k`, before one valid record (40_framer.md R77). -/
def Obligations.GarbagePrefixIsDiscarded : Prop :=
  ∀ (s : State) (g : List Byte) (r : FrameRecord), BlockTurn s → s.phase = .atL → r.valid s.cfg = true →
    s.buf = g ++ encodeRecord s.cfg r → (∀ q < g.length, le32At s.buf q ≠ s.cfg.marker) →
    ∃ t u : State, step s = .next t ∧
      u = { s with out := if 0 < g.length then s.out ++ [.diag .preSync g.length] else s.out } ∧
      t.out = (u.decodeAndEmit ⟨r.fmt, r.x1, r.y1, r.x2, r.y2, r.dataLen, r.payload, 21 + r.dataLen.toNat, s.infoSeq⟩).out ∧
      t.buf = [] ∧ t.pos = s.pos + (g.length + (21 + r.dataLen.toNat))

/-- How a stream is cut into chunks does not change the Info and Region events: any two splits of one byte string, offered to
the same block with `SWAP16` held, end with the same `out` port (40_framer.md R75, 60_exceptions.md R136). -/
def Obligations.ChunkingIndependence : Prop :=
  ∀ (s t u : State) (cs ds : List (Byte × List Byte)) (m n : Nat),
    s.phase = .idle → s.turns = [] → s.inputs = [] → s.cfg.bufCap = none → s.ovf = false →
    cs.flatMap (fun c => c.1 :: c.2) = ds.flatMap (fun c => c.1 :: c.2) →
    Reaches m (s.offered (cs.map fun c => .chunk c.1 c.2)) t → GoodEnd t →
    Reaches n (s.offered (ds.map fun c => .chunk c.1 c.2)) u → GoodEnd u →
    outPort t.out = outPort u.out ∧ t.infoSeq = u.infoSeq

/-- A marker inside an awaited payload is never a frame start: with a FRAME header at `BUF[0]`, the pass after the next chunk
runs that same command on the longer buffer, whatever the chunk holds (10_state.md R18, 40_framer.md R64). -/
def Obligations.AwaitedRecordIsNotRescanned : Prop :=
  ∀ (s : State) (first : Byte) (more rest : List Byte) (ins : List Transaction) (i : Instr),
    s.turns = [] → s.phase = .idle → s.cfg.bufCap = none → s.ovf = false →
    decode s.cfg s.buf = .instr i rest → s.inputs = .chunk first more :: ins →
    ∃ u, step s = .next u ∧ u.buf = s.buf ++ first :: more ∧ u.pos = s.pos ∧ u.out = s.out ∧
      step u = exec i { u with hr := parseHeader s.buf }

/-- A run of finitely many transactions ends between passes, with every transaction taken, in a bounded number of steps
(70_reset_and_hazards.md R158, 40_framer.md R74). -/
def Obligations.RunOfTransactionsEnds : Prop :=
  ∀ (s : State) (ts : List Transaction), s.turns = [] → s.phase = .idle → s.inputs = [] →
    ∃ n t, n ≤ 2 * ts.length + s.buf.length + (ts.map Transaction.size).sum ∧
      Reaches n (s.offered ts) t ∧ t.phase = .idle ∧ t.inputs = []

/-! ### The commands -/

/-- INFO: its event with the raw fields and the new count, 17 bytes removed whatever `data_len` says, no field checked, and the
pass goes on at L; nothing else changes (40_framer.md R67). It enters `PI` (48_downstream.md R110, the spec's decision D27), in
this very step (log 21, DEDUCED). -/
def Obligations.InfoEmitsItsRawFields : Prop :=
  ∀ (s : State) (x1 y1 x2 y2 : U16) (n : U32),
    exec (.info x1 y1 x2 y2 n) s = .next { s with
      infoSeq := s.infoSeq + 1
      out := s.out ++ [.info ⟨x1, y1, x2, y2, n, s.infoSeq + 1⟩]
      pendingInfo := s.pendingInfo ++ [⟨x1, y1, x2, y2, n, s.infoSeq + 1⟩]
      buf := s.buf.drop 17
      pos := s.pos + 17
      phase := .atL }

/-- A FRAME command whose `total` bytes are not all there waits: nothing is removed, nothing emitted, the pass stops, for every
`data_len` (40_framer.md R64). -/
def Obligations.FrameWaitsForItsTotalBytes : Prop :=
  ∀ (s : State) (fmt : Fmt) (x1 y1 x2 y2 : U16) (n : U32), s.buf.length < 17 + n.toNat + 4 →
    ∃ hr, exec (fmt.instr x1 y1 x2 y2 n) s = .next { s with phase := .idle, hr := hr, freeCtr := s.freeCtr + 1 }

/-- A FRAME command with its `total` bytes there removes them all whatever the result, emits exactly one event, which is no
Info, and goes on at L; nothing else changes, but that a Region enters `Q` (40_framer.md R65, 41_decoder.md R101, 60_exceptions.md
R127, R129; the push is 48_downstream.md R107, the spec's decision D27, and that it falls in this step is log 21, DEDUCED). -/
def Obligations.WholeFrameIsConsumedWithOneEvent : Prop :=
  ∀ (s : State) (fmt : Fmt) (x1 y1 x2 y2 : U16) (n : U32), 17 + n.toNat + 4 ≤ s.buf.length →
    (∃ code, exec (fmt.instr x1 y1 x2 y2 n) s = .next { s with
      buf := s.buf.drop (17 + n.toNat + 4), pos := s.pos + (17 + n.toNat + 4), phase := .atL,
      out := s.out ++ [.diag code (17 + n.toNat + 4)] }) ∨
    (∃ r, exec (fmt.instr x1 y1 x2 y2 n) s = .next { s with
      buf := s.buf.drop (17 + n.toNat + 4), pos := s.pos + (17 + n.toNat + 4), phase := .atL,
      out := s.out ++ [.region r], queue := pushRegion s.cfg.qcap s.queue r } ∧
      r.fmt = fmt ∧ r.x = x1 ∧ r.y = y1 ∧ r.seq = s.infoSeq)

/-- Step G: a wrong end marker is BAD_END, also when the length is 0; a right one with length 0 is ZERO_LEN (40_framer.md R66; the
order of the two is the spec's decision D20). -/
def Obligations.EndMarkerThenZeroLength : Prop :=
  ∀ (s : State) (fmt : Fmt) (x1 y1 x2 y2 : U16) (n : U32), 17 + n.toNat + 4 ≤ s.buf.length →
    (le32At s.buf (17 + n.toNat) ≠ s.cfg.endMarker →
      exec (fmt.instr x1 y1 x2 y2 n) s = .next { s with
        buf := s.buf.drop (17 + n.toNat + 4), pos := s.pos + (17 + n.toNat + 4), phase := .atL,
        out := s.out ++ [.diag .badEnd (17 + n.toNat + 4)] }) ∧
    (le32At s.buf (17 + n.toNat) = s.cfg.endMarker → n = 0 →
      exec (fmt.instr x1 y1 x2 y2 n) s = .next { s with
        buf := s.buf.drop (17 + n.toNat + 4), pos := s.pos + (17 + n.toNat + 4), phase := .atL,
        out := s.out ++ [.diag .zeroLen (17 + n.toNat + 4)] })

/-- A validated record with `x2 < x1` or `y2 < y1` is dropped with DEC_BADRECT, for every format and before any other check
(41_decoder.md R81, R82; the spec's decisions D11 and D21). -/
def Obligations.BadRectangleIsDropped : Prop :=
  ∀ (s : State) (fmt : Fmt) (x1 y1 x2 y2 : U16) (n : U32), 17 + n.toNat + 4 ≤ s.buf.length →
    le32At s.buf (17 + n.toNat) = s.cfg.endMarker → 0 < n.toNat → (x2.toNat < x1.toNat ∨ y2.toNat < y1.toNat) →
    exec (fmt.instr x1 y1 x2 y2 n) s = .next { s with
      buf := s.buf.drop (17 + n.toNat + 4), pos := s.pos + (17 + n.toNat + 4), phase := .atL,
      out := s.out ++ [.diag .decBadRect (17 + n.toNat + 4)] }

/-- FRAME_RAW16 on a validated record with a rectangle: with `n ≥ 2N` one Region of exactly N pixels, pixel i expanded from
payload bytes 2i and 2i+1 in the order `SWAP16` selects, the bytes from 2N on ignored; with `n < 2N` DEC_SHORT (41_decoder.md R87,
30_encoding.md R47; which order a value of `SWAP16` means is the spec's decision D8). The Region's push into `Q` is 48_downstream.md
R107 (D27), in this step by log 21 (DEDUCED). -/
def Obligations.Raw16DecodesItsPixels : Prop :=
  ∀ (s : State) (x1 y1 x2 y2 : U16) (n : U32), 17 + n.toNat + 4 ≤ s.buf.length →
    le32At s.buf (17 + n.toNat) = s.cfg.endMarker → 0 < n.toNat → x1.toNat ≤ x2.toNat → y1.toNat ≤ y2.toNat →
    (2 * ((x2.toNat - x1.toNat + 1) * (y2.toNat - y1.toNat + 1)) ≤ n.toNat →
      ∃ px, exec (.frameRaw16 x1 y1 x2 y2 n) s = .next { s with
          buf := s.buf.drop (17 + n.toNat + 4), pos := s.pos + (17 + n.toNat + 4), phase := .atL,
          out := s.out ++ [.region ⟨.raw16, x1, y1, x2.toNat - x1.toNat + 1, y2.toNat - y1.toNat + 1, px, s.infoSeq⟩],
          queue := pushRegion s.cfg.qcap s.queue
            ⟨.raw16, x1, y1, x2.toNat - x1.toNat + 1, y2.toNat - y1.toNat + 1, px, s.infoSeq⟩ } ∧
        px.length = (x2.toNat - x1.toNat + 1) * (y2.toNat - y1.toNat + 1) ∧
        ∀ i < px.length, ∃ v : U16, px[i]? = some (expand565 v) ∧
          v.toNat = if s.swap16 then 256 * (byteAt s.buf (17 + 2 * i)).toNat + (byteAt s.buf (17 + (2 * i + 1))).toNat
            else (byteAt s.buf (17 + 2 * i)).toNat + 256 * (byteAt s.buf (17 + (2 * i + 1))).toNat) ∧
    (n.toNat < 2 * ((x2.toNat - x1.toNat + 1) * (y2.toNat - y1.toNat + 1)) →
      exec (.frameRaw16 x1 y1 x2 y2 n) s = .next { s with
        buf := s.buf.drop (17 + n.toNat + 4), pos := s.pos + (17 + n.toNat + 4), phase := .atL,
        out := s.out ++ [.diag .decShort (17 + n.toNat + 4)] })

/-- FRAME_RAW8 on a validated record with a rectangle: with `n ≥ N` one Region of exactly N pixels, pixel i expanded from payload
byte i; with `n < N` DEC_SHORT (41_decoder.md R88, R96; the spec's decision D12). The Region's push into `Q` is 48_downstream.md
R107 (D27), in this step by log 21 (DEDUCED). -/
def Obligations.Raw8DecodesItsPixels : Prop :=
  ∀ (s : State) (x1 y1 x2 y2 : U16) (n : U32), 17 + n.toNat + 4 ≤ s.buf.length →
    le32At s.buf (17 + n.toNat) = s.cfg.endMarker → 0 < n.toNat → x1.toNat ≤ x2.toNat → y1.toNat ≤ y2.toNat →
    ((x2.toNat - x1.toNat + 1) * (y2.toNat - y1.toNat + 1) ≤ n.toNat →
      ∃ px, exec (.frameRaw8 x1 y1 x2 y2 n) s = .next { s with
          buf := s.buf.drop (17 + n.toNat + 4), pos := s.pos + (17 + n.toNat + 4), phase := .atL,
          out := s.out ++ [.region ⟨.raw8, x1, y1, x2.toNat - x1.toNat + 1, y2.toNat - y1.toNat + 1, px, s.infoSeq⟩],
          queue := pushRegion s.cfg.qcap s.queue
            ⟨.raw8, x1, y1, x2.toNat - x1.toNat + 1, y2.toNat - y1.toNat + 1, px, s.infoSeq⟩ } ∧
        px.length = (x2.toNat - x1.toNat + 1) * (y2.toNat - y1.toNat + 1) ∧
        ∀ i < px.length, px[i]? = some (expand332 s.cfg.div332 (byteAt s.buf (17 + i)))) ∧
    (n.toNat < (x2.toNat - x1.toNat + 1) * (y2.toNat - y1.toNat + 1) →
      exec (.frameRaw8 x1 y1 x2 y2 n) s = .next { s with
        buf := s.buf.drop (17 + n.toNat + 4), pos := s.pos + (17 + n.toNat + 4), phase := .atL,
        out := s.out ++ [.diag .decShort (17 + n.toNat + 4)] })

/-- FRAME_RLE8 on a validated record with a rectangle, `S` being the runs of its payload: odd length under `fail` is DEC_RLE_ODD;
else `len(S) < N` is DEC_RLE_SHORT; else `len(S) > N` under `fail` is DEC_RLE_LONG; else one Region of the first N values of `S`
(41_decoder.md R94, with the parameters of R91 and R93). The Region's push into `Q` is 48_downstream.md R107 (D27), in this step by
log 21 (DEDUCED). -/
def Obligations.Rle8ExpandsItsRuns : Prop :=
  ∀ (s : State) (x1 y1 x2 y2 : U16) (n : U32) (S : List Byte), 17 + n.toNat + 4 ≤ s.buf.length →
    le32At s.buf (17 + n.toNat) = s.cfg.endMarker → 0 < n.toNat → x1.toNat ≤ x2.toNat → y1.toNat ≤ y2.toNat →
    S = runs ((s.buf.drop 17).take n.toNat) →
    (n.toNat % 2 = 1 → s.cfg.rleOddTail = .fail →
      exec (.frameRle8 x1 y1 x2 y2 n) s = .next { s with
        buf := s.buf.drop (17 + n.toNat + 4), pos := s.pos + (17 + n.toNat + 4), phase := .atL,
        out := s.out ++ [.diag .decRleOdd (17 + n.toNat + 4)] }) ∧
    ((n.toNat % 2 = 0 ∨ s.cfg.rleOddTail = .ignore) →
      (S.length < (x2.toNat - x1.toNat + 1) * (y2.toNat - y1.toNat + 1) →
        exec (.frameRle8 x1 y1 x2 y2 n) s = .next { s with
          buf := s.buf.drop (17 + n.toNat + 4), pos := s.pos + (17 + n.toNat + 4), phase := .atL,
          out := s.out ++ [.diag .decRleShort (17 + n.toNat + 4)] }) ∧
      ((x2.toNat - x1.toNat + 1) * (y2.toNat - y1.toNat + 1) < S.length → s.cfg.rleOverrun = .fail →
        exec (.frameRle8 x1 y1 x2 y2 n) s = .next { s with
          buf := s.buf.drop (17 + n.toNat + 4), pos := s.pos + (17 + n.toNat + 4), phase := .atL,
          out := s.out ++ [.diag .decRleLong (17 + n.toNat + 4)] }) ∧
      ((x2.toNat - x1.toNat + 1) * (y2.toNat - y1.toNat + 1) = S.length ∨
          ((x2.toNat - x1.toNat + 1) * (y2.toNat - y1.toNat + 1) < S.length ∧ s.cfg.rleOverrun = .truncate) →
        ∃ px, exec (.frameRle8 x1 y1 x2 y2 n) s = .next { s with
            buf := s.buf.drop (17 + n.toNat + 4), pos := s.pos + (17 + n.toNat + 4), phase := .atL,
            out := s.out ++ [.region ⟨.rle8, x1, y1, x2.toNat - x1.toNat + 1, y2.toNat - y1.toNat + 1, px, s.infoSeq⟩],
            queue := pushRegion s.cfg.qcap s.queue
              ⟨.rle8, x1, y1, x2.toNat - x1.toNat + 1, y2.toNat - y1.toNat + 1, px, s.infoSeq⟩ } ∧
          px.length = (x2.toNat - x1.toNat + 1) * (y2.toNat - y1.toNat + 1) ∧
          ∀ i < px.length, px[i]? = some (expand332 s.cfg.div332 (byteAt S i))))

/-- FRAME_RLE16 on a validated record with a rectangle is consumed like any other and reported DEC_UNSUPPORTED, whatever its
payload: it never yields a region (41_decoder.md R95). -/
def Obligations.Rle16IsReportedUnsupported : Prop :=
  ∀ (s : State) (x1 y1 x2 y2 : U16) (n : U32), 17 + n.toNat + 4 ≤ s.buf.length →
    le32At s.buf (17 + n.toNat) = s.cfg.endMarker → 0 < n.toNat →
    (x1.toNat ≤ x2.toNat → y1.toNat ≤ y2.toNat →
      exec (.frameRle16 x1 y1 x2 y2 n) s = .next { s with
        buf := s.buf.drop (17 + n.toNat + 4), pos := s.pos + (17 + n.toNat + 4), phase := .atL,
        out := s.out ++ [.diag .decUnsupported (17 + n.toNat + 4)] }) ∧
    ((x2.toNat < x1.toNat ∨ y2.toNat < y1.toNat) →
      exec (.frameRle16 x1 y1 x2 y2 n) s = .next { s with
        buf := s.buf.drop (17 + n.toNat + 4), pos := s.pos + (17 + n.toNat + 4), phase := .atL,
        out := s.out ++ [.diag .decBadRect (17 + n.toNat + 4)] })

/-- UNKNOWN discards the one byte at `BUF[0]`, whatever the `cmd` byte, and scans again from step A; nothing else changes
(40_framer.md R72; which byte and where the scan resumes are the spec's decision D19). -/
def Obligations.UnknownDiscardsOneByte : Prop :=
  ∀ (s : State) (cmd : Byte),
    exec (.unknown cmd) s = .next { s with
      buf := s.buf.drop 1
      pos := s.pos + 1
      out := s.out ++ [.diag .unknownCmd 1]
      phase := .atA }

/-! ### The decoder -/

/-- Every Region the decoder answers has the record's rectangle, its `fmt`, its `seq`, and exactly `w*h` pixels (41_decoder.md R97, 30_encoding.md R46). -/
def Obligations.DecodedRegionHasAllItsPixels : Prop :=
  ∀ (c : Config) (swap16 : Bool) (rec : Record) (r : Region), decodeRecord c swap16 rec = .region r →
    rec.x1.toNat ≤ rec.x2.toNat ∧ rec.y1.toNat ≤ rec.y2.toNat ∧ rec.fmt ≠ .rle16 ∧
    r.fmt = rec.fmt ∧ r.x = rec.x1 ∧ r.y = rec.y1 ∧ r.seq = rec.seq ∧
    r.w = rec.x2.toNat - rec.x1.toNat + 1 ∧ r.h = rec.y2.toNat - rec.y1.toNat + 1 ∧
    1 ≤ r.w ∧ r.w ≤ 65536 ∧ 1 ≤ r.h ∧ r.h ≤ 65536 ∧ r.pixels.length = r.w * r.h

/-- `Expand565` in numbers: each channel's bits moved to the top, its own top bits below them (41_decoder.md R83; the green formula
is the spec's inference from the source's "analogously"). -/
def Obligations.Expand565ReplicatesTopBits : Prop :=
  ∀ v : U16,
    (expand565 v).r.toNat = v.toNat / 2048 * 8 + v.toNat / 2048 / 4 ∧
    (expand565 v).g.toNat = v.toNat / 32 % 64 * 4 + v.toNat / 32 % 64 / 16 ∧
    (expand565 v).b.toNat = v.toNat % 32 * 8 + v.toNat % 32 / 4

/-- Source property, RGB565 (41_decoder.md R103). -/
def Obligations.Expand565SourceExamples : Prop :=
  expand565 0xF800 = ⟨255, 0, 0⟩ ∧ expand565 0x0000 = ⟨0, 0, 0⟩

/-- Source property, RGB332, under either `DIV332` (41_decoder.md R104). -/
def Obligations.Expand332SourceExamples : Prop :=
  ∀ m : Rounding, expand332 m 0xE0 = ⟨255, 0, 0⟩ ∧ expand332 m 0x00 = ⟨0, 0, 0⟩

/-- `Expand332` in numbers, for both values of `DIV332` (41_decoder.md R84, R85; the parameter is the spec's decision D10). -/
def Obligations.Expand332ScalesLinearly : Prop :=
  ∀ v : Byte,
    (expand332 .floor v).r.toNat = v.toNat / 32 * 255 / 7 ∧
    (expand332 .floor v).g.toNat = v.toNat / 4 % 8 * 255 / 7 ∧
    (expand332 .floor v).b.toNat = v.toNat % 4 * 255 / 3 ∧
    (expand332 .nearest v).r.toNat = (2 * (v.toNat / 32 * 255) + 7) / 14 ∧
    (expand332 .nearest v).g.toNat = (2 * (v.toNat / 4 % 8 * 255) + 7) / 14 ∧
    (expand332 .nearest v).b.toNat = (2 * (v.toNat % 4 * 255) + 3) / 6

/-- `Runs(P)` is the concatenation of the runs of its `len(P) div 2` pairs, a lone final byte giving nothing; its length is the sum
of the counts, at most 255 a pair (41_decoder.md R89). -/
def Obligations.RunsConcatenateTheirPairs : Prop :=
  ∀ p : List Byte,
    runs p = (List.range (p.length / 2)).flatMap (fun k => List.replicate (byteAt p (2 * k)).toNat (byteAt p (2 * k + 1))) ∧
    (runs p).length = ((List.range (p.length / 2)).map (fun k => (byteAt p (2 * k)).toNat)).sum ∧
    (runs p).length ≤ 255 * (p.length / 2)

/-- Source property, RLE round trip: an RLE8 record of even length whose counts sum to exactly N gives the Region of the RAW8
record with the same rectangle whose payload is its runs, but for `fmt` (41_decoder.md R102). -/
def Obligations.RleRegionEqualsRawRegionOfItsRuns : Prop :=
  ∀ (c : Config) (swap16 swap16' : Bool) (rec : Record) (n' : U32) (total' : Nat),
    rec.fmt = .rle8 → rec.x1.toNat ≤ rec.x2.toNat → rec.y1.toNat ≤ rec.y2.toNat →
    rec.payload.length = rec.dataLen.toNat → rec.dataLen.toNat % 2 = 0 →
    (runs rec.payload).length = (rec.x2.toNat - rec.x1.toNat + 1) * (rec.y2.toNat - rec.y1.toNat + 1) →
    n'.toNat = (runs rec.payload).length →
    ∃ r, decodeRecord c swap16 rec = .region r ∧
      decodeRecord c swap16' { rec with fmt := .raw8, dataLen := n', payload := runs rec.payload, total := total' }
        = .region { r with fmt := .raw8 }

/-- `SWAP16` selects the byte order of raw 16-bit pixels and nothing else: no other command and no framing depends on it
(20_memory.md R28, 30_encoding.md R44). -/
def Obligations.Swap16AffectsOnlyRaw16 : Prop :=
  ∀ (s t : State) (v : Bool),
    (∀ i : Instr, (∀ x1 y1 x2 y2 n, i ≠ .frameRaw16 x1 y1 x2 y2 n) → exec i s = .next t →
      exec i { s with swap16 := v } = .next { t with swap16 := v }) ∧
    (fetch s = .stopped t → fetch { s with swap16 := v } = .stopped { t with swap16 := v }) ∧
    (∀ i, fetch s = .command i t → fetch { s with swap16 := v } = .command i { t with swap16 := v })

/-! ### The ports -/

/-- `in`: the chunk is appended and a pass begins (10_state.md R5); a chunk that would exceed a finite `BUF_CAP`, or any chunk with
`OVF` set, is refused whole, sets `OVF` and is reported (60_exceptions.md R133; the spec's decisions D17, D18). -/
def Obligations.ChunkIsAppendedOrRefusedWhole : Prop :=
  ∀ (s : State) (first : Byte) (rest : List Byte) (ins : List Transaction), BlockTurn s → s.phase = .idle →
    s.inputs = .chunk first rest :: ins →
    (s.ovf = false → (∀ cap, s.cfg.bufCap = some cap → s.buf.length + (rest.length + 1) ≤ cap) →
      step s = .next { s with
        turns := s.turns.tail, inputs := ins, buf := s.buf ++ first :: rest, ingested := s.ingested + (rest.length + 1), phase := .atL }) ∧
    ((s.ovf = true ∨ ∃ cap, s.cfg.bufCap = some cap ∧ cap < s.buf.length + (rest.length + 1)) →
      step s = .next { s with
        turns := s.turns.tail, inputs := ins, ovf := true, out := s.out ++ [.diag .overflow (rest.length + 1)] })

/-- `OVF` is sticky: once set, only a FULL reset clears it, and it is set only by a chunk under a finite `BUF_CAP` (10_state.md R16,
60_exceptions.md R133; the spec's decision D17). -/
def Obligations.OvfIsStickyUntilFullReset : Prop :=
  ∀ s t : State, step s = .next t →
    (s.ovf = true → t.ovf = false → s.phase = .idle ∧ s.inputs.head? = some (.rst .full)) ∧
    (s.ovf = false → t.ovf = true →
      ∃ cap first rest, s.cfg.bufCap = some cap ∧ s.inputs.head? = some (.chunk first rest) ∧
        cap < s.buf.length + (rest.length + 1) ∧ t.buf = s.buf)

/-- `ctrl` writes `SWAP16` and nothing else, with `OVF` set as well (10_state.md R11, 60_exceptions.md R133). -/
def Obligations.CtrlWritesOnlySwap16 : Prop :=
  ∀ (s : State) (v : Bool) (ins : List Transaction), BlockTurn s → s.phase = .idle → s.inputs = .ctrl v :: ins →
    step s = .next { s with turns := s.turns.tail, inputs := ins, swap16 := v }

/-- Nothing in the stream changes the configuration: no step changes a parameter, and only a `ctrl` write or a FULL reset changes
`SWAP16` (60_exceptions.md R138, 10_state.md R20). -/
def Obligations.StreamChangesNoConfiguration : Prop :=
  ∀ s t : State, step s = .next t →
    t.cfg = s.cfg ∧
    (t.swap16 ≠ s.swap16 →
      s.phase = .idle ∧ (s.inputs.head? = some (.ctrl t.swap16) ∨
        (s.inputs.head? = some (.rst .full) ∧ t.swap16 = s.cfg.swap16Reset)))

/-- A FULL reset sets every element of the block to its reset value (70_reset_and_hazards.md R144; the spec's decisions D8, D26).
`HR` is unspecified; what becomes of the consumer is the model's parameter (log 8). -/
def Obligations.FullResetClearsTheBlock : Prop :=
  ∀ (s : State) (ins : List Transaction), BlockTurn s → s.phase = .idle → s.inputs = .rst .full :: ins →
    ∃ t, step s = .next t ∧ t.buf = [] ∧ t.pos = 0 ∧ t.swap16 = s.cfg.swap16Reset ∧ t.infoSeq = 0 ∧ t.out = [] ∧
      t.ovf = false ∧ t.posBase = 0 ∧ t.ingested = 0 ∧ t.phase = .idle ∧ t.cfg = s.cfg ∧ t.inputs = ins ∧ t.turns = s.turns.tail ∧
      (s.cfg.consumerOnFull = .keep →
        t.queue = s.queue ∧ t.pendingInfo = s.pendingInfo ∧ t.canvas = s.canvas ∧ t.shown = s.shown) ∧
      (s.cfg.consumerOnFull = .restart →
        t.queue = [] ∧ t.pendingInfo = [] ∧ t.canvas = .uninitialized ∧ t.shown = none)

/-- A LIVENESS reset changes no state of the block (70_reset_and_hazards.md R145). That the consumer's state, the canvas included,
stays as well rests on log 11 (DESIGN CHOICE: the loss of connection is a turn of its own). -/
def Obligations.LivenessResetChangesNothing : Prop :=
  ∀ (s : State) (ins : List Transaction), BlockTurn s → s.phase = .idle → s.inputs = .rst .liveness :: ins →
    step s = .next { s with turns := s.turns.tail, inputs := ins }

/-- A RECONNECT reset empties `BUF` only when `RECONNECT_CLEARS_BUFFER` is set and keeps the rest of the block (70_reset_and_hazards.md
R146; the spec's decision D26); the consumer discards the queued regions (48_downstream.md R120), in this step by log 10 (DEDUCED).
Where it empties `BUF`, `POS` is kept or counts anew as the model's parameter says (log 9). -/
def Obligations.ReconnectKeepsTheBlock : Prop :=
  ∀ (s : State) (ins : List Transaction), BlockTurn s → s.phase = .idle → s.inputs = .rst .reconnect :: ins →
    (s.cfg.reconnectClearsBuffer = false →
      step s = .next { s with turns := s.turns.tail, inputs := ins, queue := [] }) ∧
    (s.cfg.reconnectClearsBuffer = true → s.cfg.posOnClear = .keep →
      step s = .next { s with
        turns := s.turns.tail, inputs := ins, queue := [], buf := [], posBase := s.pos, ingested := 0 }) ∧
    (s.cfg.reconnectClearsBuffer = true → s.cfg.posOnClear = .restart →
      step s = .next { s with
        turns := s.turns.tail, inputs := ins, queue := [], buf := [], pos := 0, posBase := 0, ingested := 0 })

/-- The state after reset, for every parameters: the values the spec's table gives the block (10_state.md R21; the spec's decisions
D8, D22, D26). -/
def Obligations.PowerOnStateOfTheBlock : Prop :=
  ∀ c : Config,
    (State.resetWith c).cfg = c ∧ (State.resetWith c).buf = [] ∧ (State.resetWith c).pos = 0 ∧
    (State.resetWith c).posBase = 0 ∧ (State.resetWith c).ingested = 0 ∧
    (State.resetWith c).swap16 = c.swap16Reset ∧ (State.resetWith c).infoSeq = 0 ∧ (State.resetWith c).out = [] ∧
    (State.resetWith c).ovf = false ∧ State.reset = State.resetWith Config.test ∧ State.reset.swap16 = false

/-! ### Non-interference -/

/-- `HR` is never read before it is written: two states that differ only in `HR` step to states that differ at most in `HR` (10_state.md R10). -/
def Obligations.HrIsNeverRead : Prop :=
  ∀ (s t : State) (h : Header), step s = .next t → ∃ h', step { s with hr := h } = .next { t with hr := h' }

/-- The consumer constrains no state of the block: in a step of the block, the contents of `Q`, `PI` and the canvas change nothing but
themselves; and a turn of the consumer changes nothing of the block (48_downstream.md R106, R119). -/
def Obligations.ConsumerNeverDisturbsTheBlock : Prop :=
  (∀ (s t : State) (q : List Region) (pi : List Info) (cv : Canvas) (sh : Option Canvas), BlockTurn s → step s = .next t →
    ∃ q' pi' cv' sh', step { s with queue := q, pendingInfo := pi, canvas := cv, shown := sh } =
      .next { t with queue := q', pendingInfo := pi', canvas := cv', shown := sh' }) ∧
  (∀ s t : State, ¬ BlockTurn s → step s = .next t →
    t = { s with turns := s.turns.tail, queue := t.queue, pendingInfo := t.pendingInfo, canvas := t.canvas, shown := t.shown })

/-! ### The downstream contract -/

/-- A push to a full queue first removes the oldest entry, then appends; to a queue that is not full it only appends (48_downstream.md R108). -/
def Obligations.PushDropsTheOldestWhenFull : Prop :=
  ∀ (cap : Nat) (q : List Region) (oldest r : Region),
    (q.length < cap → pushRegion cap q r = q ++ [r]) ∧
    ((oldest :: q).length = cap → pushRegion cap (oldest :: q) r = q ++ [r])

/-- Source property, queue overflow, for any number of pushes: pushed into an empty queue of capacity `cap`, regions leave the last
`cap` of them, in order (48_downstream.md R122). -/
def Obligations.QueueKeepsTheNewest : Prop :=
  ∀ (cap : Nat) (rs : List Region), 0 < cap → rs.foldl (pushRegion cap) [] = rs.drop (rs.length - cap)

/-- The tick: every pending Info in order, then every queued region in order, then the canvas is presented; both queues are empty
after it and the block is untouched (48_downstream.md R113). -/
def Obligations.TickAppliesInfosThenRegions : Prop :=
  ∀ s : State, s.turns.head? = some .tick →
    step s = .next { s with
      turns := s.turns.tail
      pendingInfo := []
      queue := []
      canvas := s.queue.foldl (writeRegion s.cfg) (s.pendingInfo.foldl (applyInfo s.cfg) s.canvas)
      shown := some (s.queue.foldl (writeRegion s.cfg) (s.pendingInfo.foldl (applyInfo s.cfg) s.canvas)) }

/-- Applying an Info: the first one, or one with other dimensions, allocates a canvas with every pixel (0,0,0); one with the same
dimensions sets only `bpp` (48_downstream.md R111, R112; the last is the spec's decision D30). It holds for every `INFO_MAP` (log 3). -/
def Obligations.InfoAllocatesOrSetsBpp : Prop :=
  ∀ (c : Config) (i : Info) (w h b : Int), applyInfoMap c.infoMap i = (w, h, b) →
    (∃ f, applyInfo c .uninitialized i = .sized f ∧ f.width = w ∧ f.height = h ∧ f.bpp = b ∧ f.allocSeq = i.seq ∧
      ∀ x y, f.pixelAt x y = ⟨0, 0, 0⟩) ∧
    (∀ f : Surface, (w ≠ f.width ∨ h ≠ f.height) →
      ∃ g, applyInfo c (.sized f) i = .sized g ∧ g.width = w ∧ g.height = h ∧ g.bpp = b ∧ g.allocSeq = i.seq ∧
        ∀ x y, g.pixelAt x y = ⟨0, 0, 0⟩) ∧
    (∀ f : Surface, w = f.width → h = f.height → applyInfo c (.sized f) i = .sized { f with bpp := b })

/-- Writing a region sets exactly the pixels of its rectangle that lie inside the canvas, row by row, and no other (48_downstream.md R116,
41_decoder.md R86). -/
def Obligations.BlitWritesExactlyTheInBoundsPixels : Prop :=
  ∀ (f : Surface) (r : Region), (Canvas.sized f).wf → r.whole →
    (∀ x y : Nat, (x : Int) < f.width → (y : Int) < f.height →
      (blit r f).pixelAt x y =
        if r.x.toNat ≤ x ∧ x < r.x.toNat + r.w ∧ r.y.toNat ≤ y ∧ y < r.y.toNat + r.h then
          r.pixels.getD ((y - r.y.toNat) * r.w + (x - r.x.toNat)) ⟨0, 0, 0⟩
        else f.pixelAt x y) ∧
    (∀ a, f.width.toNat * f.height.toNat ≤ a → (blit r f).pixels.read a = f.pixels.read a) ∧
    (blit r f).width = f.width ∧ (blit r f).height = f.height ∧ (blit r f).bpp = f.bpp ∧ (blit r f).allocSeq = f.allocSeq

/-- A region popped by the tick: discarded without a canvas (48_downstream.md R117, the spec's decision D28); written when it is not
stale; when it is stale, dropped whole or written like a fresh one, as `STALE_REGION_POLICY` says (R115, OPEN, D29). -/
def Obligations.StaleRegionFollowsThePolicy : Prop :=
  ∀ (c : Config) (f : Surface) (r : Region),
    writeRegion c .uninitialized r = .uninitialized ∧
    (f.allocSeq ≤ r.seq → writeRegion c (.sized f) r = .sized (blit r f)) ∧
    (r.seq < f.allocSeq → c.stalePolicy = .drop → writeRegion c (.sized f) r = .sized f) ∧
    (r.seq < f.allocSeq → c.stalePolicy = .clip → writeRegion c (.sized f) r = .sized (blit r f))

/-- Source property, resize mid-stream: an Info that changes the dimensions, then a region queued before it. Nothing is written under
`drop`; under `clip` only pixels of the region's rectangle inside the new canvas (48_downstream.md R123). -/
def Obligations.ResizeThenStaleRegion : Prop :=
  ∀ (c : Config) (f : Surface) (i : Info) (r : Region) (w h b : Int),
    applyInfoMap c.infoMap i = (w, h, b) → (w ≠ f.width ∨ h ≠ f.height) → r.seq < i.seq → r.whole →
    ∃ g, writeRegion c (applyInfo c (.sized f) i) r = .sized g ∧ g.width = w ∧ g.height = h ∧ (Canvas.sized g).wf ∧
      (c.stalePolicy = .drop → ∀ x y, g.pixelAt x y = ⟨0, 0, 0⟩) ∧
      (c.stalePolicy = .clip → ∀ x y : Nat, (x : Int) < w → (y : Int) < h →
        g.pixelAt x y =
          if r.x.toNat ≤ x ∧ x < r.x.toNat + r.w ∧ r.y.toNat ≤ y ∧ y < r.y.toNat + r.h then
            r.pixels.getD ((y - r.y.toNat) * r.w + (x - r.x.toNat)) ⟨0, 0, 0⟩
          else ⟨0, 0, 0⟩)

/-- Only the consumer writes the canvas: a step of the block leaves it alone, but that a FULL reset may restart the consumer (log 8)
(48_downstream.md R119, 60_exceptions.md R135). -/
def Obligations.OnlyTheConsumerWritesTheCanvas : Prop :=
  ∀ s t : State, step s = .next t → BlockTurn s → t.canvas ≠ s.canvas ∨ t.shown ≠ s.shown →
    s.phase = .idle ∧ s.inputs.head? = some (.rst .full) ∧ s.cfg.consumerOnFull = .restart

/-- Loss of connection: the canvas keeps its pixels or every pixel becomes (0,0,0), as `DISCONNECT_CANVAS` says (48_downstream.md R121,
OPEN, D37; log 11); the block and the queues are untouched. -/
def Obligations.LossOfConnectionRetainsOrBlanks : Prop :=
  ∀ s : State, s.turns.head? = some .connectionLost →
    (s.cfg.disconnectCanvas = .retain → step s = .next { s with turns := s.turns.tail }) ∧
    (s.cfg.disconnectCanvas = .blank →
      ∃ cv, step s = .next { s with turns := s.turns.tail, canvas := cv } ∧
        (s.canvas = .uninitialized → cv = .uninitialized) ∧
        (∀ f, s.canvas = .sized f → ∃ g, cv = .sized g ∧ g.width = f.width ∧ g.height = f.height ∧ g.bpp = f.bpp ∧
          g.allocSeq = f.allocSeq ∧ ∀ x y, g.pixelAt x y = ⟨0, 0, 0⟩))

/-! ### The invariant -/

/-- The invariant holds right after reset, for every parameters (10_state.md R21). Its clauses on the queue, the canvas and the
presented canvas rest on log 7 (DESIGN CHOICE: empty queues, an Uninitialized canvas) and log 19 (DESIGN CHOICE: nothing presented). -/
def Obligations.ResetMeetsTheInvariant : Prop := ∀ c : Config, Inv (State.resetWith c)

/-- Every step keeps the invariant, from every state that has it: the buffer's bound, the count that `POS` is, OVF's
meaning, the stop states between passes, the queue's bound, whole regions, the numbering of Infos and Regions in stream order, the
canonical canvas (10_state.md R7, R8, R13, R14, R16, 20_memory.md R35, 40_framer.md R59, R79, 48_downstream.md R107, R116). -/
def Obligations.EveryStepKeepsTheInvariant : Prop :=
  ∀ s t : State, Inv s → step s = .next t → Inv t
end

