-- ==== Sys2Proof/Laws/Bytes.lean ====
section
/-! SUPPORT. Byte assembly: its value as a number, and that it undoes the byte lists of the encoder. -/
namespace Sys2Proof

@[simp] theorem byteAt_cons_zero (x : Byte) (l : List Byte) : byteAt (x :: l) 0 = x := rfl

@[simp] theorem byteAt_cons_succ (x : Byte) (l : List Byte) (i : Nat) : byteAt (x :: l) (i + 1) = byteAt l i := by
  simp [byteAt]

theorem byteAt_eq_getElem {l : List Byte} {i : Nat} (h : i < l.length) : byteAt l i = l[i] := by
  simp [byteAt, h]

theorem byteAt_append_left {l m : List Byte} {i : Nat} (h : i < l.length) : byteAt (l ++ m) i = byteAt l i := by
  simp [byteAt, List.getElem?_append_left h]

theorem byteAt_append_right {l m : List Byte} {i : Nat} (h : l.length ≤ i) : byteAt (l ++ m) i = byteAt m (i - l.length) := by
  simp [byteAt, List.getElem?_append_right h]

/-- Removing `k` bytes from the front renumbers offset `i + k` as `i` (20_memory.md R23). -/
theorem byteAt_drop (l : List Byte) (k i : Nat) : byteAt (l.drop k) i = byteAt l (k + i) := by
  simp [byteAt]

theorem byteAt_take {l : List Byte} {k i : Nat} (h : i < k) : byteAt (l.take k) i = byteAt l i := by
  simp [byteAt, h]

theorem toNat_le16 (b0 b1 : Byte) : (le16 b0 b1).toNat = b0.toNat + 256 * b1.toNat := by
  have e : le16 b0 b1 = b1 ++ b0 := by
    ext i
    simp [le16]
    grind
  rw [e, BitVec.toNat_append, ← Nat.shiftLeft_add_eq_or_of_lt b0.isLt]
  omega

theorem be16_eq_le16 (b0 b1 : Byte) : be16 b0 b1 = le16 b1 b0 := by
  rw [be16, le16, BitVec.or_comm]

theorem toNat_be16 (b0 b1 : Byte) : (be16 b0 b1).toNat = 256 * b0.toNat + b1.toNat := by
  rw [be16_eq_le16, toNat_le16, Nat.add_comm]

theorem toNat_le32 (b0 b1 b2 b3 : Byte) :
    (le32 b0 b1 b2 b3).toNat = b0.toNat + 256 * b1.toNat + 65536 * b2.toNat + 16777216 * b3.toNat := by
  have e : le32 b0 b1 b2 b3 = b3 ++ (b2 ++ (b1 ++ b0)) := by
    ext i
    simp [le32]
    grind
  have l1 : (b1 ++ b0).toNat < 2 ^ 16 := (b1 ++ b0).isLt
  have l2 : (b2 ++ (b1 ++ b0)).toNat < 2 ^ 24 := (b2 ++ (b1 ++ b0)).isLt
  rw [e, BitVec.toNat_append, ← Nat.shiftLeft_add_eq_or_of_lt l2, BitVec.toNat_append,
    ← Nat.shiftLeft_add_eq_or_of_lt l1, BitVec.toNat_append, ← Nat.shiftLeft_add_eq_or_of_lt b0.isLt]
  omega

theorem le16_extract (v : U16) : le16 (v.extractLsb' 0 8) (v.extractLsb' 8 8) = v := by
  apply BitVec.eq_of_toNat_eq
  rw [toNat_le16]
  simp only [BitVec.extractLsb'_toNat, Nat.shiftRight_eq_div_pow]
  have := v.isLt
  omega

theorem le32_extract (v : U32) :
    le32 (v.extractLsb' 0 8) (v.extractLsb' 8 8) (v.extractLsb' 16 8) (v.extractLsb' 24 8) = v := by
  apply BitVec.eq_of_toNat_eq
  rw [toNat_le32]
  simp only [BitVec.extractLsb'_toNat, Nat.shiftRight_eq_div_pow]
  have := v.isLt
  omega

theorem bytes16_le16 (b0 b1 : Byte) : bytes16 (le16 b0 b1) = [b0, b1] := by
  have h0 := b0.isLt
  have h1 := b1.isLt
  simp only [bytes16, List.cons.injEq, and_true]
  constructor <;>
  · apply BitVec.eq_of_toNat_eq
    rw [BitVec.extractLsb'_toNat, toNat_le16, Nat.shiftRight_eq_div_pow]
    omega

theorem bytes32_le32 (b0 b1 b2 b3 : Byte) : bytes32 (le32 b0 b1 b2 b3) = [b0, b1, b2, b3] := by
  have h0 := b0.isLt
  have h1 := b1.isLt
  have h2 := b2.isLt
  have h3 := b3.isLt
  simp only [bytes32, List.cons.injEq, and_true]
  refine ⟨?_, ?_, ?_, ?_⟩ <;>
  · apply BitVec.eq_of_toNat_eq
    rw [BitVec.extractLsb'_toNat, toNat_le32, Nat.shiftRight_eq_div_pow]
    omega

@[simp] theorem length_bytes16 (v : U16) : (bytes16 v).length = 2 := rfl

@[simp] theorem length_bytes32 (v : U32) : (bytes32 v).length = 4 := rfl

@[simp] theorem length_encodeHeader (h : Header) : (encodeHeader h).length = headerSize := rfl

@[simp] theorem length_encode (c : Config) (i : Instr) : (encode c i).length = headerSize := rfl

theorem le32At_append_left {l m : List Byte} {i : Nat} (h : i + 4 ≤ l.length) : le32At (l ++ m) i = le32At l i := by
  simp only [le32At]
  rw [byteAt_append_left (by omega), byteAt_append_left (by omega), byteAt_append_left (by omega), byteAt_append_left (by omega)]

theorem le32At_append_right {l m : List Byte} {i : Nat} (h : l.length ≤ i) : le32At (l ++ m) i = le32At m (i - l.length) := by
  simp only [le32At]
  rw [byteAt_append_right (by omega), byteAt_append_right (by omega), byteAt_append_right (by omega), byteAt_append_right (by omega)]
  simp only [Nat.sub_add_comm h]

theorem le32At_drop (l : List Byte) (k i : Nat) : le32At (l.drop k) i = le32At l (k + i) := by
  simp only [le32At, byteAt_drop, Nat.add_assoc]

theorem parseHeader_append {l : List Byte} (m : List Byte) (h : headerSize ≤ l.length) :
    parseHeader (l ++ m) = parseHeader l := by
  have e : ∀ i, i < 17 → byteAt (l ++ m) i = byteAt l i := fun i hi => byteAt_append_left (Nat.lt_of_lt_of_le hi h)
  simp only [parseHeader, le32At, le16At]
  simp [e]

end Sys2Proof
end

