-- ==== Sys2Proof/Laws/Memory.lean ====
section
/-! SUPPORT. The canvas memory: read after write, and every operation keeps the canonical form. -/
namespace Sys2Proof.Machine

theorem Memory.wf_nil : Memory.wf [] := ⟨.nil, by simp⟩

theorem Memory.wf_tail {c : Nat × RGB888} {m : Memory} (h : Memory.wf (c :: m)) : Memory.wf m :=
  ⟨(List.pairwise_cons.mp h.1).2, fun d hd => h.2 d (List.mem_cons_of_mem _ hd)⟩

/-- Every entry after a write is the written one or an old one. -/
theorem Memory.mem_write {m : Memory} {a : Nat} {v : RGB888} {c : Nat × RGB888} (h : c ∈ m.write a v) :
    (c = (a, v) ∧ v ≠ RGB888.black) ∨ c ∈ m := by
  induction m with
  | nil => grind [Memory.write]
  | cons d rest ih =>
    obtain ⟨k, x⟩ := d
    grind [Memory.write]

theorem Memory.wf_write {m : Memory} (h : m.wf) (a : Nat) (v : RGB888) : Memory.wf (m.write a v) := by
  refine ⟨?_, fun c hc => ?_⟩
  · induction m with
    | nil => simp only [Memory.write]; split <;> simp
    | cons d rest ih =>
      obtain ⟨k, x⟩ := d
      have hs := List.pairwise_cons.mp h.1
      have hr := ih (Memory.wf_tail h)
      simp only [Memory.write]
      split
      · split
        · exact h.1
        · refine List.pairwise_cons.mpr ⟨fun c hc => ?_, h.1⟩
          rcases List.mem_cons.mp hc with rfl | hc
          · assumption
          · have := hs.1 c hc
            simp only at *
            omega
      · split
        · split
          · exact hs.2
          · subst_vars
            exact List.pairwise_cons.mpr ⟨hs.1, hs.2⟩
        · refine List.pairwise_cons.mpr ⟨fun c hc => ?_, hr⟩
          rcases Memory.mem_write hc with ⟨rfl, -⟩ | hc
          · simp only; omega
          · exact hs.1 c hc
  · rcases Memory.mem_write hc with ⟨rfl, hv⟩ | hc
    · exact hv
    · exact h.2 c hc

/-- An address below every listed one reads as unlisted. -/
theorem Memory.read_of_lt {m : Memory} {a : Nat} (h : ∀ c ∈ m, a < c.1) : m.read a = RGB888.black := by
  induction m with
  | nil => rfl
  | cons d rest ih =>
    have hd := h d List.mem_cons_self
    rw [Memory.read, if_neg (by omega)]
    exact ih fun c hc => h c (List.mem_cons_of_mem _ hc)

/-- The canonical form makes a read after a write the value written, and leaves every other address alone. -/
theorem Memory.read_write {m : Memory} (h : m.wf) (a b : Nat) (v : RGB888) :
    (m.write a v).read b = if b = a then v else m.read b := by
  induction m with
  | nil => grind [Memory.write, Memory.read]
  | cons d rest ih =>
    obtain ⟨k, x⟩ := d
    have hs := List.pairwise_cons.mp h.1
    have hr := ih (Memory.wf_tail h)
    have hk : ∀ e, e ≤ k → Memory.read rest e = RGB888.black :=
      fun e he => Memory.read_of_lt fun c hc => Nat.lt_of_le_of_lt he (hs.1 c hc)
    grind [Memory.write, Memory.read]

theorem Memory.mem_of_read {m : Memory} {a : Nat} (h : m.read a ≠ RGB888.black) : (a, m.read a) ∈ m := by
  induction m with
  | nil => exact absurd rfl h
  | cons d rest ih =>
    obtain ⟨k, x⟩ := d
    grind [Memory.read]

theorem Memory.read_of_mem {m : Memory} (h : m.wf) {c : Nat × RGB888} (hc : c ∈ m) : m.read c.1 = c.2 := by
  induction m with
  | nil => simp at hc
  | cons d rest ih =>
    obtain ⟨k, x⟩ := d
    have hs := List.pairwise_cons.mp h.1
    rcases List.mem_cons.mp hc with rfl | hc
    · simp [Memory.read]
    · have := hs.1 c hc
      simp only at this
      rw [Memory.read, if_neg (by omega)]
      exact ih (Memory.wf_tail h) hc

/-- Equal memories are equal data: the canonical form is determined by what its addresses read as. -/
theorem Memory.ext_read {m n : Memory} (hm : m.wf) (hn : n.wf) (h : ∀ a, m.read a = n.read a) : m = n := by
  have sub : ∀ {p q : Memory}, p.wf → q.wf → (∀ a, p.read a = q.read a) → p ⊆ q := by
    intro p q hp hq e c hc
    have hv := Memory.read_of_mem hp hc
    have := Memory.mem_of_read (m := q) (a := c.1) (by rw [← e, hv]; exact hp.2 c hc)
    rwa [← e, hv] at this
  have nd : ∀ {p : Memory}, p.wf → p.Nodup := fun hp => hp.1.imp fun hab e => by subst e; omega
  have pm : m.Perm n := by
    rw [List.perm_ext_iff_of_nodup (nd hm) (nd hn)]
    exact fun c => ⟨fun x => sub hm hn h x, fun x => sub hn hm (fun a => (h a).symm) x⟩
  exact pm.eq_of_pairwise (fun a b _ _ h1 h2 => by omega) hm.1 hn.1

end Sys2Proof.Machine
end

