-- ==== Sys2Proof/Laws/State.lean ====
section
/-! SUPPORT. One lemma per field per update of State, so that no later proof unfolds a record update. -/
namespace Sys2Proof.Machine.State

/-! ### `remove` -/

@[simp] theorem remove_cfg (k : Nat) (s : State) : (s.remove k).cfg = s.cfg := rfl
@[simp] theorem remove_buf (k : Nat) (s : State) : (s.remove k).buf = s.buf.drop k := rfl
@[simp] theorem remove_pos (k : Nat) (s : State) : (s.remove k).pos = s.pos + k := rfl
@[simp] theorem remove_posBase (k : Nat) (s : State) : (s.remove k).posBase = s.posBase := rfl
@[simp] theorem remove_ingested (k : Nat) (s : State) : (s.remove k).ingested = s.ingested := rfl
@[simp] theorem remove_hr (k : Nat) (s : State) : (s.remove k).hr = s.hr := rfl
@[simp] theorem remove_swap16 (k : Nat) (s : State) : (s.remove k).swap16 = s.swap16 := rfl
@[simp] theorem remove_infoSeq (k : Nat) (s : State) : (s.remove k).infoSeq = s.infoSeq := rfl
@[simp] theorem remove_out (k : Nat) (s : State) : (s.remove k).out = s.out := rfl
@[simp] theorem remove_ovf (k : Nat) (s : State) : (s.remove k).ovf = s.ovf := rfl
@[simp] theorem remove_phase (k : Nat) (s : State) : (s.remove k).phase = s.phase := rfl
@[simp] theorem remove_freeCtr (k : Nat) (s : State) : (s.remove k).freeCtr = s.freeCtr := rfl
@[simp] theorem remove_queue (k : Nat) (s : State) : (s.remove k).queue = s.queue := rfl
@[simp] theorem remove_pendingInfo (k : Nat) (s : State) : (s.remove k).pendingInfo = s.pendingInfo := rfl
@[simp] theorem remove_canvas (k : Nat) (s : State) : (s.remove k).canvas = s.canvas := rfl
@[simp] theorem remove_shown (k : Nat) (s : State) : (s.remove k).shown = s.shown := rfl
@[simp] theorem remove_inputs (k : Nat) (s : State) : (s.remove k).inputs = s.inputs := rfl
@[simp] theorem remove_turns (k : Nat) (s : State) : (s.remove k).turns = s.turns := rfl

/-! ### `emit` -/

@[simp] theorem emit_cfg (e : Event) (s : State) : (s.emit e).cfg = s.cfg := rfl
@[simp] theorem emit_buf (e : Event) (s : State) : (s.emit e).buf = s.buf := rfl
@[simp] theorem emit_pos (e : Event) (s : State) : (s.emit e).pos = s.pos := rfl
@[simp] theorem emit_posBase (e : Event) (s : State) : (s.emit e).posBase = s.posBase := rfl
@[simp] theorem emit_ingested (e : Event) (s : State) : (s.emit e).ingested = s.ingested := rfl
@[simp] theorem emit_hr (e : Event) (s : State) : (s.emit e).hr = s.hr := rfl
@[simp] theorem emit_swap16 (e : Event) (s : State) : (s.emit e).swap16 = s.swap16 := rfl
@[simp] theorem emit_infoSeq (e : Event) (s : State) : (s.emit e).infoSeq = s.infoSeq := rfl
@[simp] theorem emit_out (e : Event) (s : State) : (s.emit e).out = s.out ++ [e] := rfl
@[simp] theorem emit_ovf (e : Event) (s : State) : (s.emit e).ovf = s.ovf := rfl
@[simp] theorem emit_phase (e : Event) (s : State) : (s.emit e).phase = s.phase := rfl
@[simp] theorem emit_freeCtr (e : Event) (s : State) : (s.emit e).freeCtr = s.freeCtr := rfl
@[simp] theorem emit_queue (e : Event) (s : State) : (s.emit e).queue = routeRegion s.cfg.qcap s.queue e := rfl
@[simp] theorem emit_pendingInfo (e : Event) (s : State) : (s.emit e).pendingInfo = routeInfo s.pendingInfo e := rfl
@[simp] theorem emit_canvas (e : Event) (s : State) : (s.emit e).canvas = s.canvas := rfl
@[simp] theorem emit_shown (e : Event) (s : State) : (s.emit e).shown = s.shown := rfl
@[simp] theorem emit_inputs (e : Event) (s : State) : (s.emit e).inputs = s.inputs := rfl
@[simp] theorem emit_turns (e : Event) (s : State) : (s.emit e).turns = s.turns := rfl

/-! ### `emitDiag` -/

@[simp] theorem emitDiag_cfg (code : DiagCode) (n : Nat) (s : State) : (s.emitDiag code n).cfg = s.cfg := rfl
@[simp] theorem emitDiag_buf (code : DiagCode) (n : Nat) (s : State) : (s.emitDiag code n).buf = s.buf := rfl
@[simp] theorem emitDiag_pos (code : DiagCode) (n : Nat) (s : State) : (s.emitDiag code n).pos = s.pos := rfl
@[simp] theorem emitDiag_posBase (code : DiagCode) (n : Nat) (s : State) : (s.emitDiag code n).posBase = s.posBase := rfl
@[simp] theorem emitDiag_ingested (code : DiagCode) (n : Nat) (s : State) : (s.emitDiag code n).ingested = s.ingested := rfl
@[simp] theorem emitDiag_hr (code : DiagCode) (n : Nat) (s : State) : (s.emitDiag code n).hr = s.hr := rfl
@[simp] theorem emitDiag_swap16 (code : DiagCode) (n : Nat) (s : State) : (s.emitDiag code n).swap16 = s.swap16 := rfl
@[simp] theorem emitDiag_infoSeq (code : DiagCode) (n : Nat) (s : State) : (s.emitDiag code n).infoSeq = s.infoSeq := rfl
@[simp] theorem emitDiag_out (code : DiagCode) (n : Nat) (s : State) : (s.emitDiag code n).out = s.out ++ [.diag code n] := rfl
@[simp] theorem emitDiag_ovf (code : DiagCode) (n : Nat) (s : State) : (s.emitDiag code n).ovf = s.ovf := rfl
@[simp] theorem emitDiag_phase (code : DiagCode) (n : Nat) (s : State) : (s.emitDiag code n).phase = s.phase := rfl
@[simp] theorem emitDiag_freeCtr (code : DiagCode) (n : Nat) (s : State) : (s.emitDiag code n).freeCtr = s.freeCtr := rfl
@[simp] theorem emitDiag_queue (code : DiagCode) (n : Nat) (s : State) : (s.emitDiag code n).queue = s.queue := rfl
@[simp] theorem emitDiag_pendingInfo (code : DiagCode) (n : Nat) (s : State) : (s.emitDiag code n).pendingInfo = s.pendingInfo := rfl
@[simp] theorem emitDiag_canvas (code : DiagCode) (n : Nat) (s : State) : (s.emitDiag code n).canvas = s.canvas := rfl
@[simp] theorem emitDiag_shown (code : DiagCode) (n : Nat) (s : State) : (s.emitDiag code n).shown = s.shown := rfl
@[simp] theorem emitDiag_inputs (code : DiagCode) (n : Nat) (s : State) : (s.emitDiag code n).inputs = s.inputs := rfl
@[simp] theorem emitDiag_turns (code : DiagCode) (n : Nat) (s : State) : (s.emitDiag code n).turns = s.turns := rfl

/-! ### `gotoL` -/

@[simp] theorem gotoL_cfg (s : State) : (s.gotoL).cfg = s.cfg := rfl
@[simp] theorem gotoL_buf (s : State) : (s.gotoL).buf = s.buf := rfl
@[simp] theorem gotoL_pos (s : State) : (s.gotoL).pos = s.pos := rfl
@[simp] theorem gotoL_posBase (s : State) : (s.gotoL).posBase = s.posBase := rfl
@[simp] theorem gotoL_ingested (s : State) : (s.gotoL).ingested = s.ingested := rfl
@[simp] theorem gotoL_hr (s : State) : (s.gotoL).hr = s.hr := rfl
@[simp] theorem gotoL_swap16 (s : State) : (s.gotoL).swap16 = s.swap16 := rfl
@[simp] theorem gotoL_infoSeq (s : State) : (s.gotoL).infoSeq = s.infoSeq := rfl
@[simp] theorem gotoL_out (s : State) : (s.gotoL).out = s.out := rfl
@[simp] theorem gotoL_ovf (s : State) : (s.gotoL).ovf = s.ovf := rfl
@[simp] theorem gotoL_phase (s : State) : (s.gotoL).phase = .atL := rfl
@[simp] theorem gotoL_freeCtr (s : State) : (s.gotoL).freeCtr = s.freeCtr := rfl
@[simp] theorem gotoL_queue (s : State) : (s.gotoL).queue = s.queue := rfl
@[simp] theorem gotoL_pendingInfo (s : State) : (s.gotoL).pendingInfo = s.pendingInfo := rfl
@[simp] theorem gotoL_canvas (s : State) : (s.gotoL).canvas = s.canvas := rfl
@[simp] theorem gotoL_shown (s : State) : (s.gotoL).shown = s.shown := rfl
@[simp] theorem gotoL_inputs (s : State) : (s.gotoL).inputs = s.inputs := rfl
@[simp] theorem gotoL_turns (s : State) : (s.gotoL).turns = s.turns := rfl

/-! ### `gotoA` -/

@[simp] theorem gotoA_cfg (s : State) : (s.gotoA).cfg = s.cfg := rfl
@[simp] theorem gotoA_buf (s : State) : (s.gotoA).buf = s.buf := rfl
@[simp] theorem gotoA_pos (s : State) : (s.gotoA).pos = s.pos := rfl
@[simp] theorem gotoA_posBase (s : State) : (s.gotoA).posBase = s.posBase := rfl
@[simp] theorem gotoA_ingested (s : State) : (s.gotoA).ingested = s.ingested := rfl
@[simp] theorem gotoA_hr (s : State) : (s.gotoA).hr = s.hr := rfl
@[simp] theorem gotoA_swap16 (s : State) : (s.gotoA).swap16 = s.swap16 := rfl
@[simp] theorem gotoA_infoSeq (s : State) : (s.gotoA).infoSeq = s.infoSeq := rfl
@[simp] theorem gotoA_out (s : State) : (s.gotoA).out = s.out := rfl
@[simp] theorem gotoA_ovf (s : State) : (s.gotoA).ovf = s.ovf := rfl
@[simp] theorem gotoA_phase (s : State) : (s.gotoA).phase = .atA := rfl
@[simp] theorem gotoA_freeCtr (s : State) : (s.gotoA).freeCtr = s.freeCtr := rfl
@[simp] theorem gotoA_queue (s : State) : (s.gotoA).queue = s.queue := rfl
@[simp] theorem gotoA_pendingInfo (s : State) : (s.gotoA).pendingInfo = s.pendingInfo := rfl
@[simp] theorem gotoA_canvas (s : State) : (s.gotoA).canvas = s.canvas := rfl
@[simp] theorem gotoA_shown (s : State) : (s.gotoA).shown = s.shown := rfl
@[simp] theorem gotoA_inputs (s : State) : (s.gotoA).inputs = s.inputs := rfl
@[simp] theorem gotoA_turns (s : State) : (s.gotoA).turns = s.turns := rfl

/-! ### `stopPass` -/

@[simp] theorem stopPass_cfg (s : State) : (s.stopPass).cfg = s.cfg := rfl
@[simp] theorem stopPass_buf (s : State) : (s.stopPass).buf = s.buf := rfl
@[simp] theorem stopPass_pos (s : State) : (s.stopPass).pos = s.pos := rfl
@[simp] theorem stopPass_posBase (s : State) : (s.stopPass).posBase = s.posBase := rfl
@[simp] theorem stopPass_ingested (s : State) : (s.stopPass).ingested = s.ingested := rfl
@[simp] theorem stopPass_hr (s : State) : (s.stopPass).hr = Config.freeHeader s.freeCtr := rfl
@[simp] theorem stopPass_swap16 (s : State) : (s.stopPass).swap16 = s.swap16 := rfl
@[simp] theorem stopPass_infoSeq (s : State) : (s.stopPass).infoSeq = s.infoSeq := rfl
@[simp] theorem stopPass_out (s : State) : (s.stopPass).out = s.out := rfl
@[simp] theorem stopPass_ovf (s : State) : (s.stopPass).ovf = s.ovf := rfl
@[simp] theorem stopPass_phase (s : State) : (s.stopPass).phase = .idle := rfl
@[simp] theorem stopPass_freeCtr (s : State) : (s.stopPass).freeCtr = s.freeCtr + 1 := rfl
@[simp] theorem stopPass_queue (s : State) : (s.stopPass).queue = s.queue := rfl
@[simp] theorem stopPass_pendingInfo (s : State) : (s.stopPass).pendingInfo = s.pendingInfo := rfl
@[simp] theorem stopPass_canvas (s : State) : (s.stopPass).canvas = s.canvas := rfl
@[simp] theorem stopPass_shown (s : State) : (s.stopPass).shown = s.shown := rfl
@[simp] theorem stopPass_inputs (s : State) : (s.stopPass).inputs = s.inputs := rfl
@[simp] theorem stopPass_turns (s : State) : (s.stopPass).turns = s.turns := rfl

/-! ### `loadHR` -/

@[simp] theorem loadHR_cfg (h : Header) (s : State) : (s.loadHR h).cfg = s.cfg := rfl
@[simp] theorem loadHR_buf (h : Header) (s : State) : (s.loadHR h).buf = s.buf := rfl
@[simp] theorem loadHR_pos (h : Header) (s : State) : (s.loadHR h).pos = s.pos := rfl
@[simp] theorem loadHR_posBase (h : Header) (s : State) : (s.loadHR h).posBase = s.posBase := rfl
@[simp] theorem loadHR_ingested (h : Header) (s : State) : (s.loadHR h).ingested = s.ingested := rfl
@[simp] theorem loadHR_hr (h : Header) (s : State) : (s.loadHR h).hr = h := rfl
@[simp] theorem loadHR_swap16 (h : Header) (s : State) : (s.loadHR h).swap16 = s.swap16 := rfl
@[simp] theorem loadHR_infoSeq (h : Header) (s : State) : (s.loadHR h).infoSeq = s.infoSeq := rfl
@[simp] theorem loadHR_out (h : Header) (s : State) : (s.loadHR h).out = s.out := rfl
@[simp] theorem loadHR_ovf (h : Header) (s : State) : (s.loadHR h).ovf = s.ovf := rfl
@[simp] theorem loadHR_phase (h : Header) (s : State) : (s.loadHR h).phase = s.phase := rfl
@[simp] theorem loadHR_freeCtr (h : Header) (s : State) : (s.loadHR h).freeCtr = s.freeCtr := rfl
@[simp] theorem loadHR_queue (h : Header) (s : State) : (s.loadHR h).queue = s.queue := rfl
@[simp] theorem loadHR_pendingInfo (h : Header) (s : State) : (s.loadHR h).pendingInfo = s.pendingInfo := rfl
@[simp] theorem loadHR_canvas (h : Header) (s : State) : (s.loadHR h).canvas = s.canvas := rfl
@[simp] theorem loadHR_shown (h : Header) (s : State) : (s.loadHR h).shown = s.shown := rfl
@[simp] theorem loadHR_inputs (h : Header) (s : State) : (s.loadHR h).inputs = s.inputs := rfl
@[simp] theorem loadHR_turns (h : Header) (s : State) : (s.loadHR h).turns = s.turns := rfl

/-! ### `raiseOverflow` -/

@[simp] theorem raiseOverflow_cfg (n : Nat) (s : State) : (s.raiseOverflow n).cfg = s.cfg := rfl
@[simp] theorem raiseOverflow_buf (n : Nat) (s : State) : (s.raiseOverflow n).buf = s.buf := rfl
@[simp] theorem raiseOverflow_pos (n : Nat) (s : State) : (s.raiseOverflow n).pos = s.pos := rfl
@[simp] theorem raiseOverflow_posBase (n : Nat) (s : State) : (s.raiseOverflow n).posBase = s.posBase := rfl
@[simp] theorem raiseOverflow_ingested (n : Nat) (s : State) : (s.raiseOverflow n).ingested = s.ingested := rfl
@[simp] theorem raiseOverflow_hr (n : Nat) (s : State) : (s.raiseOverflow n).hr = s.hr := rfl
@[simp] theorem raiseOverflow_swap16 (n : Nat) (s : State) : (s.raiseOverflow n).swap16 = s.swap16 := rfl
@[simp] theorem raiseOverflow_infoSeq (n : Nat) (s : State) : (s.raiseOverflow n).infoSeq = s.infoSeq := rfl
@[simp] theorem raiseOverflow_out (n : Nat) (s : State) : (s.raiseOverflow n).out = s.out ++ [.diag .overflow n] := rfl
@[simp] theorem raiseOverflow_ovf (n : Nat) (s : State) : (s.raiseOverflow n).ovf = true := rfl
@[simp] theorem raiseOverflow_phase (n : Nat) (s : State) : (s.raiseOverflow n).phase = s.phase := rfl
@[simp] theorem raiseOverflow_freeCtr (n : Nat) (s : State) : (s.raiseOverflow n).freeCtr = s.freeCtr := rfl
@[simp] theorem raiseOverflow_queue (n : Nat) (s : State) : (s.raiseOverflow n).queue = s.queue := rfl
@[simp] theorem raiseOverflow_pendingInfo (n : Nat) (s : State) : (s.raiseOverflow n).pendingInfo = s.pendingInfo := rfl
@[simp] theorem raiseOverflow_canvas (n : Nat) (s : State) : (s.raiseOverflow n).canvas = s.canvas := rfl
@[simp] theorem raiseOverflow_shown (n : Nat) (s : State) : (s.raiseOverflow n).shown = s.shown := rfl
@[simp] theorem raiseOverflow_inputs (n : Nat) (s : State) : (s.raiseOverflow n).inputs = s.inputs := rfl
@[simp] theorem raiseOverflow_turns (n : Nat) (s : State) : (s.raiseOverflow n).turns = s.turns := rfl

/-! ### `clearBuf` -/

@[simp] theorem clearBuf_cfg (s : State) : (s.clearBuf).cfg = s.cfg := rfl
@[simp] theorem clearBuf_buf (s : State) : (s.clearBuf).buf = [] := rfl
@[simp] theorem clearBuf_pos (s : State) : (s.clearBuf).pos = posAfterClear s.cfg.posOnClear s.pos := rfl
@[simp] theorem clearBuf_posBase (s : State) : (s.clearBuf).posBase = posAfterClear s.cfg.posOnClear s.pos := rfl
@[simp] theorem clearBuf_ingested (s : State) : (s.clearBuf).ingested = 0 := rfl
@[simp] theorem clearBuf_hr (s : State) : (s.clearBuf).hr = s.hr := rfl
@[simp] theorem clearBuf_swap16 (s : State) : (s.clearBuf).swap16 = s.swap16 := rfl
@[simp] theorem clearBuf_infoSeq (s : State) : (s.clearBuf).infoSeq = s.infoSeq := rfl
@[simp] theorem clearBuf_out (s : State) : (s.clearBuf).out = s.out := rfl
@[simp] theorem clearBuf_ovf (s : State) : (s.clearBuf).ovf = s.ovf := rfl
@[simp] theorem clearBuf_phase (s : State) : (s.clearBuf).phase = s.phase := rfl
@[simp] theorem clearBuf_freeCtr (s : State) : (s.clearBuf).freeCtr = s.freeCtr := rfl
@[simp] theorem clearBuf_queue (s : State) : (s.clearBuf).queue = s.queue := rfl
@[simp] theorem clearBuf_pendingInfo (s : State) : (s.clearBuf).pendingInfo = s.pendingInfo := rfl
@[simp] theorem clearBuf_canvas (s : State) : (s.clearBuf).canvas = s.canvas := rfl
@[simp] theorem clearBuf_shown (s : State) : (s.clearBuf).shown = s.shown := rfl
@[simp] theorem clearBuf_inputs (s : State) : (s.clearBuf).inputs = s.inputs := rfl
@[simp] theorem clearBuf_turns (s : State) : (s.clearBuf).turns = s.turns := rfl

/-! ### `reconnect` -/

@[simp] theorem reconnect_cfg (s : State) : (s.reconnect).cfg = s.cfg := by unfold reconnect; split <;> rfl
@[simp] theorem reconnect_buf (s : State) :
    (s.reconnect).buf = if s.cfg.reconnectClearsBuffer then [] else s.buf := by unfold reconnect; split <;> rfl
@[simp] theorem reconnect_pos (s : State) :
    (s.reconnect).pos = if s.cfg.reconnectClearsBuffer then posAfterClear s.cfg.posOnClear s.pos else s.pos := by unfold reconnect; split <;> rfl
@[simp] theorem reconnect_posBase (s : State) :
    (s.reconnect).posBase = if s.cfg.reconnectClearsBuffer then posAfterClear s.cfg.posOnClear s.pos else s.posBase := by unfold reconnect; split <;> rfl
@[simp] theorem reconnect_ingested (s : State) :
    (s.reconnect).ingested = if s.cfg.reconnectClearsBuffer then 0 else s.ingested := by unfold reconnect; split <;> rfl
@[simp] theorem reconnect_hr (s : State) : (s.reconnect).hr = s.hr := by unfold reconnect; split <;> rfl
@[simp] theorem reconnect_swap16 (s : State) : (s.reconnect).swap16 = s.swap16 := by unfold reconnect; split <;> rfl
@[simp] theorem reconnect_infoSeq (s : State) : (s.reconnect).infoSeq = s.infoSeq := by unfold reconnect; split <;> rfl
@[simp] theorem reconnect_out (s : State) : (s.reconnect).out = s.out := by unfold reconnect; split <;> rfl
@[simp] theorem reconnect_ovf (s : State) : (s.reconnect).ovf = s.ovf := by unfold reconnect; split <;> rfl
@[simp] theorem reconnect_phase (s : State) : (s.reconnect).phase = s.phase := by unfold reconnect; split <;> rfl
@[simp] theorem reconnect_freeCtr (s : State) : (s.reconnect).freeCtr = s.freeCtr := by unfold reconnect; split <;> rfl
@[simp] theorem reconnect_queue (s : State) : (s.reconnect).queue = [] := by unfold reconnect; split <;> rfl
@[simp] theorem reconnect_pendingInfo (s : State) : (s.reconnect).pendingInfo = s.pendingInfo := by unfold reconnect; split <;> rfl
@[simp] theorem reconnect_canvas (s : State) : (s.reconnect).canvas = s.canvas := by unfold reconnect; split <;> rfl
@[simp] theorem reconnect_shown (s : State) : (s.reconnect).shown = s.shown := by unfold reconnect; split <;> rfl
@[simp] theorem reconnect_inputs (s : State) : (s.reconnect).inputs = s.inputs := by unfold reconnect; split <;> rfl
@[simp] theorem reconnect_turns (s : State) : (s.reconnect).turns = s.turns := by unfold reconnect; split <;> rfl

/-! ### `discardAll` -/

@[simp] theorem discardAll_cfg (s : State) : (s.discardAll).cfg = s.cfg := rfl
@[simp] theorem discardAll_buf (s : State) : (s.discardAll).buf = s.buf.drop (s.buf.length - 3) := rfl
@[simp] theorem discardAll_pos (s : State) : (s.discardAll).pos = s.pos + (s.buf.length - 3) := rfl
@[simp] theorem discardAll_posBase (s : State) : (s.discardAll).posBase = s.posBase := rfl
@[simp] theorem discardAll_ingested (s : State) : (s.discardAll).ingested = s.ingested := rfl
@[simp] theorem discardAll_hr (s : State) : (s.discardAll).hr = Config.freeHeader s.freeCtr := rfl
@[simp] theorem discardAll_swap16 (s : State) : (s.discardAll).swap16 = s.swap16 := rfl
@[simp] theorem discardAll_infoSeq (s : State) : (s.discardAll).infoSeq = s.infoSeq := rfl
@[simp] theorem discardAll_out (s : State) : (s.discardAll).out = s.out ++ [.diag .noSync (s.buf.length - 3)] := rfl
@[simp] theorem discardAll_ovf (s : State) : (s.discardAll).ovf = s.ovf := rfl
@[simp] theorem discardAll_phase (s : State) : (s.discardAll).phase = .idle := rfl
@[simp] theorem discardAll_freeCtr (s : State) : (s.discardAll).freeCtr = s.freeCtr + 1 := rfl
@[simp] theorem discardAll_queue (s : State) : (s.discardAll).queue = s.queue := rfl
@[simp] theorem discardAll_pendingInfo (s : State) : (s.discardAll).pendingInfo = s.pendingInfo := rfl
@[simp] theorem discardAll_canvas (s : State) : (s.discardAll).canvas = s.canvas := rfl
@[simp] theorem discardAll_shown (s : State) : (s.discardAll).shown = s.shown := rfl
@[simp] theorem discardAll_inputs (s : State) : (s.discardAll).inputs = s.inputs := rfl
@[simp] theorem discardAll_turns (s : State) : (s.discardAll).turns = s.turns := rfl

/-! ### `applyPending` -/

@[simp] theorem applyPending_cfg (s : State) : (s.applyPending).cfg = s.cfg := rfl
@[simp] theorem applyPending_buf (s : State) : (s.applyPending).buf = s.buf := rfl
@[simp] theorem applyPending_pos (s : State) : (s.applyPending).pos = s.pos := rfl
@[simp] theorem applyPending_posBase (s : State) : (s.applyPending).posBase = s.posBase := rfl
@[simp] theorem applyPending_ingested (s : State) : (s.applyPending).ingested = s.ingested := rfl
@[simp] theorem applyPending_hr (s : State) : (s.applyPending).hr = s.hr := rfl
@[simp] theorem applyPending_swap16 (s : State) : (s.applyPending).swap16 = s.swap16 := rfl
@[simp] theorem applyPending_infoSeq (s : State) : (s.applyPending).infoSeq = s.infoSeq := rfl
@[simp] theorem applyPending_out (s : State) : (s.applyPending).out = s.out := rfl
@[simp] theorem applyPending_ovf (s : State) : (s.applyPending).ovf = s.ovf := rfl
@[simp] theorem applyPending_phase (s : State) : (s.applyPending).phase = s.phase := rfl
@[simp] theorem applyPending_freeCtr (s : State) : (s.applyPending).freeCtr = s.freeCtr := rfl
@[simp] theorem applyPending_queue (s : State) : (s.applyPending).queue = s.queue := rfl
@[simp] theorem applyPending_pendingInfo (s : State) : (s.applyPending).pendingInfo = [] := rfl
@[simp] theorem applyPending_canvas (s : State) : (s.applyPending).canvas = s.pendingInfo.foldl (applyInfo s.cfg) s.canvas := rfl
@[simp] theorem applyPending_shown (s : State) : (s.applyPending).shown = s.shown := rfl
@[simp] theorem applyPending_inputs (s : State) : (s.applyPending).inputs = s.inputs := rfl
@[simp] theorem applyPending_turns (s : State) : (s.applyPending).turns = s.turns := rfl

/-! ### `present` -/

@[simp] theorem present_cfg (s : State) : (s.present).cfg = s.cfg := rfl
@[simp] theorem present_buf (s : State) : (s.present).buf = s.buf := rfl
@[simp] theorem present_pos (s : State) : (s.present).pos = s.pos := rfl
@[simp] theorem present_posBase (s : State) : (s.present).posBase = s.posBase := rfl
@[simp] theorem present_ingested (s : State) : (s.present).ingested = s.ingested := rfl
@[simp] theorem present_hr (s : State) : (s.present).hr = s.hr := rfl
@[simp] theorem present_swap16 (s : State) : (s.present).swap16 = s.swap16 := rfl
@[simp] theorem present_infoSeq (s : State) : (s.present).infoSeq = s.infoSeq := rfl
@[simp] theorem present_out (s : State) : (s.present).out = s.out := rfl
@[simp] theorem present_ovf (s : State) : (s.present).ovf = s.ovf := rfl
@[simp] theorem present_phase (s : State) : (s.present).phase = s.phase := rfl
@[simp] theorem present_freeCtr (s : State) : (s.present).freeCtr = s.freeCtr := rfl
@[simp] theorem present_queue (s : State) : (s.present).queue = s.queue := rfl
@[simp] theorem present_pendingInfo (s : State) : (s.present).pendingInfo = s.pendingInfo := rfl
@[simp] theorem present_canvas (s : State) : (s.present).canvas = s.canvas := rfl
@[simp] theorem present_shown (s : State) : (s.present).shown = some s.canvas := rfl
@[simp] theorem present_inputs (s : State) : (s.present).inputs = s.inputs := rfl
@[simp] theorem present_turns (s : State) : (s.present).turns = s.turns := rfl

/-! ### `turnTaken` -/

@[simp] theorem turnTaken_cfg (s : State) : (s.turnTaken).cfg = s.cfg := rfl
@[simp] theorem turnTaken_buf (s : State) : (s.turnTaken).buf = s.buf := rfl
@[simp] theorem turnTaken_pos (s : State) : (s.turnTaken).pos = s.pos := rfl
@[simp] theorem turnTaken_posBase (s : State) : (s.turnTaken).posBase = s.posBase := rfl
@[simp] theorem turnTaken_ingested (s : State) : (s.turnTaken).ingested = s.ingested := rfl
@[simp] theorem turnTaken_hr (s : State) : (s.turnTaken).hr = s.hr := rfl
@[simp] theorem turnTaken_swap16 (s : State) : (s.turnTaken).swap16 = s.swap16 := rfl
@[simp] theorem turnTaken_infoSeq (s : State) : (s.turnTaken).infoSeq = s.infoSeq := rfl
@[simp] theorem turnTaken_out (s : State) : (s.turnTaken).out = s.out := rfl
@[simp] theorem turnTaken_ovf (s : State) : (s.turnTaken).ovf = s.ovf := rfl
@[simp] theorem turnTaken_phase (s : State) : (s.turnTaken).phase = s.phase := rfl
@[simp] theorem turnTaken_freeCtr (s : State) : (s.turnTaken).freeCtr = s.freeCtr := rfl
@[simp] theorem turnTaken_queue (s : State) : (s.turnTaken).queue = s.queue := rfl
@[simp] theorem turnTaken_pendingInfo (s : State) : (s.turnTaken).pendingInfo = s.pendingInfo := rfl
@[simp] theorem turnTaken_canvas (s : State) : (s.turnTaken).canvas = s.canvas := rfl
@[simp] theorem turnTaken_shown (s : State) : (s.turnTaken).shown = s.shown := rfl
@[simp] theorem turnTaken_inputs (s : State) : (s.turnTaken).inputs = s.inputs := rfl
@[simp] theorem turnTaken_turns (s : State) : (s.turnTaken).turns = s.turns.tail := rfl

/-! ### `offered` -/

@[simp] theorem offered_cfg (ts : List Transaction) (s : State) : (s.offered ts).cfg = s.cfg := rfl
@[simp] theorem offered_buf (ts : List Transaction) (s : State) : (s.offered ts).buf = s.buf := rfl
@[simp] theorem offered_pos (ts : List Transaction) (s : State) : (s.offered ts).pos = s.pos := rfl
@[simp] theorem offered_posBase (ts : List Transaction) (s : State) : (s.offered ts).posBase = s.posBase := rfl
@[simp] theorem offered_ingested (ts : List Transaction) (s : State) : (s.offered ts).ingested = s.ingested := rfl
@[simp] theorem offered_hr (ts : List Transaction) (s : State) : (s.offered ts).hr = s.hr := rfl
@[simp] theorem offered_swap16 (ts : List Transaction) (s : State) : (s.offered ts).swap16 = s.swap16 := rfl
@[simp] theorem offered_infoSeq (ts : List Transaction) (s : State) : (s.offered ts).infoSeq = s.infoSeq := rfl
@[simp] theorem offered_out (ts : List Transaction) (s : State) : (s.offered ts).out = s.out := rfl
@[simp] theorem offered_ovf (ts : List Transaction) (s : State) : (s.offered ts).ovf = s.ovf := rfl
@[simp] theorem offered_phase (ts : List Transaction) (s : State) : (s.offered ts).phase = s.phase := rfl
@[simp] theorem offered_freeCtr (ts : List Transaction) (s : State) : (s.offered ts).freeCtr = s.freeCtr := rfl
@[simp] theorem offered_queue (ts : List Transaction) (s : State) : (s.offered ts).queue = s.queue := rfl
@[simp] theorem offered_pendingInfo (ts : List Transaction) (s : State) : (s.offered ts).pendingInfo = s.pendingInfo := rfl
@[simp] theorem offered_canvas (ts : List Transaction) (s : State) : (s.offered ts).canvas = s.canvas := rfl
@[simp] theorem offered_shown (ts : List Transaction) (s : State) : (s.offered ts).shown = s.shown := rfl
@[simp] theorem offered_inputs (ts : List Transaction) (s : State) : (s.offered ts).inputs = ts ++ s.inputs := rfl
@[simp] theorem offered_turns (ts : List Transaction) (s : State) : (s.offered ts).turns = s.turns := rfl

end Sys2Proof.Machine.State
end

