-- ==== Sys2Proof/Laws/Consumer.lean ====
section
/-! SUPPORT. What the consumer does: the tick as two folds, and that the canvas stays well-formed. -/
namespace Sys2Proof.Machine

/-- Step 2 of the tick empties `Q` and writes its regions in order. -/
theorem drainQueue_eq (s : State) : drainQueue s.queue.length s =
    { s with queue := [], canvas := s.queue.foldl (writeRegion s.cfg) s.canvas } := by
  suffices h : ∀ (q : List Region) (s : State), s.queue = q → drainQueue q.length s =
      { s with queue := [], canvas := q.foldl (writeRegion s.cfg) s.canvas } from h s.queue s rfl
  intro q
  induction q with
  | nil => intro s hs; cases s; subst hs; rfl
  | cons r rest ih =>
    intro s hs
    simp only [List.length_cons, drainQueue, hs, popRegion]
    rw [ih _ rfl]
    rfl

/-- The tick: every pending Info in order, then every queued region in order, then the canvas is presented (48_downstream.md R113). -/
theorem tick_eq (s : State) : tick s =
    { s with
      pendingInfo := []
      queue := []
      canvas := s.queue.foldl (writeRegion s.cfg) (s.pendingInfo.foldl (applyInfo s.cfg) s.canvas)
      shown := some (s.queue.foldl (writeRegion s.cfg) (s.pendingInfo.foldl (applyInfo s.cfg) s.canvas)) } := by
  have h := drainQueue_eq s.applyPending
  rw [tick, show s.queue.length = s.applyPending.queue.length from rfl, h]
  rfl

theorem inside_iff {f : Surface} {x y : Nat} : f.inside x y = true ↔ x < f.width.toNat ∧ y < f.height.toNat := by
  simp only [Surface.inside, Bool.and_eq_true, decide_eq_true_eq]
  omega

theorem addr_lt {f : Surface} {x y : Nat} (h : f.inside x y = true) : f.addr x y < f.area := by
  rw [inside_iff] at h
  unfold Surface.addr Surface.area
  calc y * f.width.toNat + x < y * f.width.toNat + f.width.toNat := by omega
    _ = (y + 1) * f.width.toNat := by rw [Nat.succ_mul]
    _ ≤ f.height.toNat * f.width.toNat := Nat.mul_le_mul_right _ h.2
    _ = f.width.toNat * f.height.toNat := Nat.mul_comm _ _

/-- Writing a pixel keeps the size of the surface. -/
theorem put_dims (f : Surface) (x y : Nat) (v : RGB888) :
    (f.put x y v).width = f.width ∧ (f.put x y v).height = f.height ∧ (f.put x y v).bpp = f.bpp ∧
      (f.put x y v).allocSeq = f.allocSeq := by
  unfold Surface.put
  split <;> simp

theorem putPixels_dims (r : Region) (l : List RGB888) (f : Surface) (i : Nat) :
    (putPixels r f i l).width = f.width ∧ (putPixels r f i l).height = f.height ∧ (putPixels r f i l).bpp = f.bpp ∧
      (putPixels r f i l).allocSeq = f.allocSeq := by
  induction l generalizing f i with
  | nil => simp [putPixels]
  | cons v vs ih =>
    obtain ⟨h1, h2, h3, h4⟩ := ih (f.put (pixelTarget r i).1 (pixelTarget r i).2 v) (i + 1)
    obtain ⟨e1, e2, e3, e4⟩ := put_dims f (pixelTarget r i).1 (pixelTarget r i).2 v
    exact ⟨h1.trans e1, h2.trans e2, h3.trans e3, h4.trans e4⟩

theorem blit_dims (r : Region) (f : Surface) :
    (blit r f).width = f.width ∧ (blit r f).height = f.height ∧ (blit r f).bpp = f.bpp ∧ (blit r f).allocSeq = f.allocSeq :=
  putPixels_dims r _ f 0

theorem put_wf {f : Surface} (h : (Canvas.sized f).wf) (x y : Nat) (v : RGB888) : (Canvas.sized (f.put x y v)).wf := by
  obtain ⟨hm, ha⟩ := h
  unfold Surface.put
  split
  · rename_i hi
    refine ⟨Memory.wf_write hm _ _, fun c hc => ?_⟩
    rcases Memory.mem_write hc with ⟨rfl, -⟩ | hc
    · exact addr_lt hi
    · exact ha c hc
  · exact ⟨hm, ha⟩

theorem putPixels_wf (r : Region) (l : List RGB888) {f : Surface} (h : (Canvas.sized f).wf) (i : Nat) :
    (Canvas.sized (putPixels r f i l)).wf := by
  induction l generalizing f i with
  | nil => exact h
  | cons v vs ih => exact ih (put_wf h _ _ v) (i + 1)

theorem blit_wf (r : Region) {f : Surface} (h : (Canvas.sized f).wf) : (Canvas.sized (blit r f)).wf :=
  putPixels_wf r _ h 0

theorem allocate_wf (d : Int × Int × Int) (n : Nat) : (Canvas.sized (allocate d n)).wf :=
  ⟨Memory.wf_nil, by simp [allocate]⟩

theorem applyInfo_wf (c : Config) {v : Canvas} (h : v.wf) (i : Info) : (applyInfo c v i).wf := by
  cases v with
  | uninitialized => exact allocate_wf _ _
  | sized f =>
    unfold applyInfo
    simp only
    split
    · exact allocate_wf _ _
    · exact h

theorem writeRegion_wf (c : Config) {v : Canvas} (h : v.wf) (r : Region) : (writeRegion c v r).wf := by
  cases v with
  | uninitialized => trivial
  | sized f =>
    unfold writeRegion
    simp only
    split
    · exact h
    · exact blit_wf r h

theorem foldl_wf {α : Type} {g : Canvas → α → Canvas} (hg : ∀ v a, v.wf → (g v a).wf) (l : List α) {v : Canvas} (h : v.wf) :
    (l.foldl g v).wf := by
  induction l generalizing v with
  | nil => exact h
  | cons a l ih => exact ih (hg v a h)

theorem blankCanvas_wf {v : Canvas} (h : v.wf) : (blankCanvas v).wf := by
  cases v with
  | uninitialized => trivial
  | sized f => exact ⟨Memory.wf_nil, by simp⟩

/-- Different pixels of a surface stand at different addresses. -/
theorem addr_inj {f : Surface} {x y x' y' : Nat} (hx : (x : Int) < f.width) (hx' : (x' : Int) < f.width) (h : f.addr x y = f.addr x' y') :
    x = x' ∧ y = y' := by
  have hx : x < f.width.toNat := by omega
  have hx' : x' < f.width.toNat := by omega
  unfold Surface.addr at h
  have h1 : x = x' := by
    have := congrArg (· % f.width.toNat) h
    simpa [Nat.mod_eq_of_lt hx, Nat.mod_eq_of_lt hx'] using this
  subst h1
  exact ⟨rfl, Nat.eq_of_mul_eq_mul_right (by omega) (Nat.add_right_cancel h)⟩

/-- A read after a write of one pixel. -/
theorem pixelAt_put {f : Surface} (hf : (Canvas.sized f).wf) (X Y : Nat) (v : RGB888) {x y : Nat} (hx : (x : Int) < f.width)
    (hy : (y : Int) < f.height) : (f.put X Y v).pixelAt x y = if X = x ∧ Y = y then v else f.pixelAt x y := by
  unfold Surface.put Surface.pixelAt
  split
  · rename_i hi
    simp only [Surface.inside, Bool.and_eq_true, decide_eq_true_eq] at hi
    simp only [Surface.addr]
    rw [Memory.read_write hf.1]
    by_cases h : X = x ∧ Y = y
    · obtain ⟨rfl, rfl⟩ := h
      simp
    · rw [if_neg h, if_neg]
      intro h'
      obtain ⟨a, b⟩ := addr_inj (f := f) hx hi.1 h'
      exact h ⟨a.symm, b.symm⟩
  · rename_i hi
    rw [if_neg]
    rintro ⟨rfl, rfl⟩
    simp only [Surface.inside, Bool.and_eq_true, decide_eq_true_eq] at hi
    omega

end Sys2Proof.Machine
end

