-- ==== Sys2Proof/Laws/Decoder.lean ====
section
/-! SUPPORT. What the decoder answers (41_decoder.md): one lemma per arm, and everything `Decode` can do. -/
namespace Sys2Proof.Machine

@[simp] theorem length_unpack16 (w : Bool) (n : Nat) (p : List Byte) : (unpack16 w n p).length = n := by simp [unpack16]

@[simp] theorem length_unpack8 (m : Rounding) (n : Nat) (p : List Byte) : (unpack8 m n p).length = n := by simp [unpack8]

theorem getElem?_unpack16 {w : Bool} {n i : Nat} {p : List Byte} (h : i < n) :
    (unpack16 w n p)[i]? = some (expand565 (rawWord w p i)) := by
  simp [unpack16, h]

theorem getElem?_unpack8 {m : Rounding} {n i : Nat} {p : List Byte} (h : i < n) :
    (unpack8 m n p)[i]? = some (expand332 m (byteAt p i)) := by
  simp [unpack8, h]

@[simp] theorem runs_pair (count value : Byte) (rest : List Byte) :
    runs (count :: value :: rest) = List.replicate count.toNat value ++ runs rest := rfl

@[simp] theorem runs_nil : runs [] = [] := rfl

@[simp] theorem runs_single (b : Byte) : runs [b] = [] := rfl

theorem decodeRaw16_pixels {w : Bool} {px n : Nat} {p : List Byte} {l : List RGB888}
    (h : decodeRaw16 w px n p = .pixels l) : 2 * px ≤ n ∧ l = unpack16 w px p := by
  grind [decodeRaw16]

theorem decodeRaw8_pixels {m : Rounding} {px n : Nat} {p : List Byte} {l : List RGB888}
    (h : decodeRaw8 m px n p = .pixels l) : px ≤ n ∧ l = unpack8 m px p := by
  grind [decodeRaw8]

theorem decodeRle8_pixels {c : Config} {px n : Nat} {p : List Byte} {l : List RGB888}
    (h : decodeRle8 c px n p = .pixels l) :
    ¬(n % 2 = 1 ∧ c.rleOddTail = .fail) ∧ px ≤ (runs p).length ∧ ¬(px < (runs p).length ∧ c.rleOverrun = .fail) ∧
      l = unpack8 c.div332 px (runs p) := by
  grind [decodeRle8]

/-- Every arm answers all the pixels of the rectangle or none (41_decoder.md R98). -/
theorem length_unpackRecord {c : Config} {w : Bool} {rec : Record} {l : List RGB888}
    (h : unpackRecord c w rec = .pixels l) : l.length = extent rec.x1 rec.x2 * extent rec.y1 rec.y2 := by
  unfold unpackRecord at h
  split at h
  · rw [(decodeRaw16_pixels h).2, length_unpack16]
  · rw [(decodeRaw8_pixels h).2, length_unpack8]
  · rw [(decodeRle8_pixels h).2.2.2, length_unpack8]
  · cases h

/-- Everything `Decode` can do: the bad rectangle, a code of its arm, or the Region with all its pixels. -/
theorem decodeRecord_cases (c : Config) (w : Bool) (rec : Record) :
    (badRect rec.x1 rec.y1 rec.x2 rec.y2 = true ∧ decodeRecord c w rec = .drop .decBadRect) ∨
    (badRect rec.x1 rec.y1 rec.x2 rec.y2 = false ∧
      ((∃ code, unpackRecord c w rec = .drop code ∧ decodeRecord c w rec = .drop code) ∨
       ∃ l, unpackRecord c w rec = .pixels l ∧ l.length = extent rec.x1 rec.x2 * extent rec.y1 rec.y2 ∧
         decodeRecord c w rec = .region ⟨rec.fmt, rec.x1, rec.y1, extent rec.x1 rec.x2, extent rec.y1 rec.y2, l, rec.seq⟩)) := by
  unfold decodeRecord
  cases hb : badRect rec.x1 rec.y1 rec.x2 rec.y2
  · right
    refine ⟨rfl, ?_⟩
    cases hu : unpackRecord c w rec with
    | drop code => exact .inl ⟨code, rfl, by simp⟩
    | pixels l => exact .inr ⟨l, rfl, length_unpackRecord hu, by simp⟩
  · exact .inl ⟨rfl, by simp⟩

theorem badRect_eq_false {x1 y1 x2 y2 : U16} : badRect x1 y1 x2 y2 = false ↔ x1.toNat ≤ x2.toNat ∧ y1.toNat ≤ y2.toNat := by
  simp [badRect]

end Sys2Proof.Machine
end

