-- ==== Sys2Proof/Laws/Frame.lean ====
section
/-! SUPPORT. Everything a FRAME command can do (40_framer.md R58 steps E to H), said once. -/
namespace Sys2Proof.Machine

theorem mem_pushRegion {qcap : Nat} {q : List Region} {r x : Region} (h : x ∈ pushRegion qcap q r) : x ∈ q ∨ x = r := by
  unfold pushRegion at h
  rcases List.mem_append.mp h with h | h
  · split at h
    · exact .inl (List.mem_of_mem_drop h)
    · exact .inl h
  · exact .inr (by simpa using h)

theorem length_pushRegion_le {qcap : Nat} {q : List Region} (hc : 0 < qcap) (hq : q.length ≤ qcap) (r : Region) :
    (pushRegion qcap q r).length ≤ qcap := by
  unfold pushRegion
  split <;> simp <;> omega

/-- The one event of a decode: the Region, or a Diag with the record's `total` (41_decoder.md R80). -/
def decodeEvent (c : Config) (w : Bool) (rec : Record) : Event :=
  match decodeRecord c w rec with
  | .region r  => .region r
  | .drop code => .diag code rec.total

theorem decodeAndEmit_eq (rec : Record) (s : State) :
    s.decodeAndEmit rec = s.emit (decodeEvent s.cfg s.swap16 rec) := by
  unfold State.decodeAndEmit decodeEvent
  cases decodeRecord s.cfg s.swap16 rec <;> rfl

/-- The one event of a whole FRAME record: its framing error, or its decode (40_framer.md R66). -/
def frameEvent (c : Config) (w : Bool) (rec : Record) (endm : U32) : Event :=
  if endm ≠ c.endMarker then .diag .badEnd rec.total
  else if rec.dataLen = 0 then .diag .zeroLen rec.total
  else decodeEvent c w rec

theorem validateAndDecode_eq (rec : Record) (endm : U32) (s : State) :
    s.validateAndDecode rec endm = s.emit (frameEvent s.cfg s.swap16 rec endm) := by
  unfold State.validateAndDecode frameEvent
  split
  · rfl
  split
  · rfl
  · exact decodeAndEmit_eq rec s

theorem runFrame_waits {fmt : Fmt} {x1 y1 x2 y2 : U16} {n : U32} {s : State} (h : s.buf.length < recordLength n) :
    runFrame fmt x1 y1 x2 y2 n s = s.stopPass := by
  rw [runFrame, if_pos h]

/-- A whole record: its `total` bytes are removed and its one event is emitted, whatever it is. -/
theorem runFrame_whole {fmt : Fmt} {x1 y1 x2 y2 : U16} {n : U32} {s : State} (h : recordLength n ≤ s.buf.length) :
    runFrame fmt x1 y1 x2 y2 n s =
      ((s.remove (recordLength n)).emit
        (frameEvent s.cfg s.swap16 (s.frameRecord fmt x1 y1 x2 y2 n) (s.frameEnd n))).gotoL := by
  rw [runFrame, if_neg (by omega), validateAndDecode_eq]
  rfl

theorem exec_instr (fmt : Fmt) (x1 y1 x2 y2 : U16) (n : U32) (s : State) :
    exec (fmt.instr x1 y1 x2 y2 n) s = .next (runFrame fmt x1 y1 x2 y2 n s) := by
  cases fmt <;> rfl

/-- The event of a FRAME record is never an Info. If it is a Region, that region is whole and carries the record's `seq`. -/
theorem frameEvent_cases (c : Config) (w : Bool) (rec : Record) (endm : U32) :
    (∃ code, frameEvent c w rec endm = .diag code rec.total) ∨
    ∃ r, frameEvent c w rec endm = .region r ∧ r.whole ∧ r.seq = rec.seq := by
  have dec : (∃ code, decodeEvent c w rec = .diag code rec.total) ∨
      ∃ r, decodeEvent c w rec = .region r ∧ r.whole ∧ r.seq = rec.seq := by
    unfold decodeEvent
    rcases decodeRecord_cases c w rec with ⟨-, h⟩ | ⟨hb, ⟨code, -, h⟩ | ⟨l, -, hl, h⟩⟩
    · exact .inl ⟨_, by rw [h]⟩
    · exact .inl ⟨_, by rw [h]⟩
    · obtain ⟨hx, hy⟩ := badRect_eq_false.mp hb
      have := rec.x2.isLt
      have := rec.y2.isLt
      exact .inr ⟨_, by rw [h], ⟨by simp [extent], by simp [extent], by simp [extent]; omega, by simp [extent]; omega, hl⟩, rfl⟩
  unfold frameEvent
  split
  · exact .inl ⟨_, rfl⟩
  split
  · exact .inl ⟨_, rfl⟩
  · exact dec

/-- A whole record of any format: the whole next state, whatever its one event is (40_framer.md R65). -/
theorem exec_whole {s : State} {n : U32} (fmt : Fmt) (x1 y1 x2 y2 : U16) (h : 17 + n.toNat + 4 ≤ s.buf.length) {e : Event}
    (he : frameEvent s.cfg s.swap16 (s.frameRecord fmt x1 y1 x2 y2 n) (s.frameEnd n) = e) :
    exec (fmt.instr x1 y1 x2 y2 n) s = .next { s with
      buf := s.buf.drop (17 + n.toNat + 4)
      pos := s.pos + (17 + n.toNat + 4)
      phase := .atL
      out := s.out ++ [e]
      queue := routeRegion s.cfg.qcap s.queue e
      pendingInfo := routeInfo s.pendingInfo e } := by
  rw [exec_instr, runFrame_whole (by simpa [recordLength, headerSize, endSize] using h), he]
  rfl

/-- The event of a validated record is its decode. -/
theorem frameEvent_valid {s : State} {fmt : Fmt} {x1 y1 x2 y2 : U16} {n : U32}
    (he : le32At s.buf (17 + n.toNat) = s.cfg.endMarker) (hn : 0 < n.toNat) :
    frameEvent s.cfg s.swap16 (s.frameRecord fmt x1 y1 x2 y2 n) (s.frameEnd n) =
      decodeEvent s.cfg s.swap16 (s.frameRecord fmt x1 y1 x2 y2 n) := by
  rw [frameEvent, if_neg (fun h => h he), if_neg]
  intro h
  have : n = 0 := h
  simp [this] at hn

/-- The event of a validated record with a rectangle is what its arm unpacks (41_decoder.md R80). -/
theorem frameEvent_rect {s : State} {fmt : Fmt} {x1 y1 x2 y2 : U16} {n : U32}
    (he : le32At s.buf (17 + n.toNat) = s.cfg.endMarker) (hn : 0 < n.toNat) (hx : x1.toNat ≤ x2.toNat) (hy : y1.toNat ≤ y2.toNat) :
    frameEvent s.cfg s.swap16 (s.frameRecord fmt x1 y1 x2 y2 n) (s.frameEnd n) =
      match unpackRecord s.cfg s.swap16 (s.frameRecord fmt x1 y1 x2 y2 n) with
      | .drop code => .diag code (17 + n.toNat + 4)
      | .pixels l  => .region ⟨fmt, x1, y1, x2.toNat - x1.toNat + 1, y2.toNat - y1.toNat + 1, l, s.infoSeq⟩ := by
  rw [frameEvent_valid he hn, decodeEvent, decodeRecord]
  simp only [State.frameRecord, badRect_eq_false.mpr ⟨hx, hy⟩, extent]
  cases unpackRecord s.cfg s.swap16 ⟨fmt, x1, y1, x2, y2, n, (s.buf.drop headerSize).take n.toNat, recordLength n, s.infoSeq⟩ <;> rfl

/-- A payload byte is a byte of `BUF` behind the header (40_framer.md R58 step F). -/
theorem byteAt_payload {b : List Byte} {n k : Nat} (h : k < n) : byteAt ((b.drop headerSize).take n) k = byteAt b (17 + k) := by
  rw [byteAt_take h, byteAt_drop]

end Sys2Proof.Machine
end

