-- ==== Sys2Proof/Laws/Scan.lean ====
section
/-! SUPPORT. What the marker scan answers (40_framer.md R59). -/
namespace Sys2Proof.Machine

theorem findMarker_some {m : U32} {b : List Byte} {p : Nat} (h : findMarker m b = some p) :
    p + 4 ≤ b.length ∧ le32At b p = m ∧ ∀ q < p, le32At b q ≠ m := by
  rw [findMarker, List.find?_range_eq_some] at h
  obtain ⟨hp, hm, hmin⟩ := h
  have hl := List.mem_range.mp hm
  exact ⟨by omega, by simpa using hp, fun q hq => by simpa using hmin q hq⟩

theorem findMarker_none {m : U32} {b : List Byte} (h : findMarker m b = none) (p : Nat) (hp : p + 4 ≤ b.length) :
    le32At b p ≠ m := by
  rw [findMarker, List.find?_range_eq_none] at h
  simpa using h p (by omega)

theorem findMarker_eq_some {m : U32} {b : List Byte} {p : Nat} (hp : p + 4 ≤ b.length) (hm : le32At b p = m)
    (hmin : ∀ q < p, le32At b q ≠ m) : findMarker m b = some p := by
  rw [findMarker, List.find?_range_eq_some]
  exact ⟨by simpa using hm, List.mem_range.mpr (by omega), fun q hq => by simpa using hmin q hq⟩

theorem findMarker_eq_none {m : U32} {b : List Byte} (h : ∀ p, p + 4 ≤ b.length → le32At b p ≠ m) :
    findMarker m b = none := by
  rw [findMarker, List.find?_range_eq_none]
  exact fun p hp => by simpa using h p (by omega)

/-- A marker at the front is the lowest. -/
theorem findMarker_zero {m : U32} {b : List Byte} (hl : 4 ≤ b.length) (hm : le32At b 0 = m) : findMarker m b = some 0 :=
  findMarker_eq_some (by omega) hm (by omega)

@[simp] theorem discardBefore_zero (s : State) : s.discardBefore 0 = s := rfl

/-- Step B changes only `BUF`, `POS` and `OUT`. -/
theorem discardBefore_eq (p : Nat) (s : State) :
    s.discardBefore p = { s with
      buf := s.buf.drop p
      pos := s.pos + p
      out := s.out ++ (if 0 < p then [Event.diag .preSync p] else []) } := by
  cases p with
  | zero => simp
  | succ n => simp [State.discardBefore, State.emitDiag, State.emit, State.remove, routeRegion, routeInfo]

end Sys2Proof.Machine
end

