-- ==== Sys2Proof/Laws/Step.lean ====
section
/-! SUPPORT. Everything a step can do, said once. -/
namespace Sys2Proof.Machine

/-- Everything a command can do when it answers a next state. -/
theorem exec_cases {i : Instr} {s t : State} (h : exec i s = .next t) :
    (∃ x1 y1 x2 y2 n, i = .info x1 y1 x2 y2 n ∧
      t = ((({ s with infoSeq := s.infoSeq + 1 } : State).emit (.info ⟨x1, y1, x2, y2, n, s.infoSeq + 1⟩)).remove headerSize).gotoL) ∨
    (∃ fmt x1 y1 x2 y2 n, i = Fmt.instr fmt x1 y1 x2 y2 n ∧ t = runFrame fmt x1 y1 x2 y2 n s) ∨
    (∃ cmd, i = .unknown cmd ∧ t = ((s.remove 1).emitDiag .unknownCmd 1).gotoA) := by
  cases i with
  | info x1 y1 x2 y2 n => exact .inl ⟨x1, y1, x2, y2, n, rfl, by cases h; rfl⟩
  | frameRaw16 x1 y1 x2 y2 n => exact .inr (.inl ⟨.raw16, x1, y1, x2, y2, n, rfl, by cases h; rfl⟩)
  | frameRle16 x1 y1 x2 y2 n => exact .inr (.inl ⟨.rle16, x1, y1, x2, y2, n, rfl, by cases h; rfl⟩)
  | frameRaw8 x1 y1 x2 y2 n => exact .inr (.inl ⟨.raw8, x1, y1, x2, y2, n, rfl, by cases h; rfl⟩)
  | frameRle8 x1 y1 x2 y2 n => exact .inr (.inl ⟨.rle8, x1, y1, x2, y2, n, rfl, by cases h; rfl⟩)
  | unknown cmd => exact .inr (.inr ⟨cmd, rfl, by cases h; rfl⟩)

/-- Every command answers a next state. -/
theorem exec_next (i : Instr) (s : State) : ∃ t, exec i s = .next t := by
  cases i <;> exact ⟨_, rfl⟩

/-- Everything an iteration of the pass can do: stop at L, stop without a marker, stop without a whole header, or run the command at the lowest marker. -/
theorem passStep_cases {s t : State} (h : passStep s = .next t) :
    (s.phase = .atL ∧ s.buf.length < headerSize ∧ t = s.stopPass) ∨
    (¬(s.phase = .atL ∧ s.buf.length < headerSize) ∧ findMarker s.cfg.marker s.buf = none ∧ t = s.discardAll) ∨
    ∃ p, ¬(s.phase = .atL ∧ s.buf.length < headerSize) ∧ findMarker s.cfg.marker s.buf = some p ∧
      ((s.buf.length < p + headerSize ∧ t = (s.discardBefore p).stopPass) ∨
       (p + headerSize ≤ s.buf.length ∧
        exec (dispatch s.cfg (parseHeader (s.buf.drop p))) ((s.discardBefore p).loadHR (parseHeader (s.buf.drop p))) = .next t)) := by
  unfold passStep fetch at h
  by_cases hl : s.phase = .atL ∧ s.buf.length < headerSize
  · rw [if_pos hl] at h
    exact .inl ⟨hl.1, hl.2, by cases h; rfl⟩
  · rw [if_neg hl] at h
    right
    unfold scanFrom at h
    cases hf : findMarker s.cfg.marker s.buf with
    | none =>
      rw [hf] at h
      exact .inl ⟨hl, rfl, by cases h; rfl⟩
    | some p =>
      rw [hf] at h
      have hp := (findMarker_some hf).1
      refine .inr ⟨p, hl, rfl, ?_⟩
      have hb : (s.discardBefore p).buf = s.buf.drop p := by rw [discardBefore_eq]
      have hc : (s.discardBefore p).cfg = s.cfg := by rw [discardBefore_eq]
      simp only [parseAndDispatch, hb, hc, List.length_drop] at h
      by_cases hs : s.buf.length - p < headerSize
      · rw [if_pos hs] at h
        exact .inl ⟨by omega, by cases h; rfl⟩
      · rw [if_neg hs] at h
        exact .inr ⟨by omega, h⟩

theorem passStep_next (s : State) : ∃ t, passStep s = .next t := by
  unfold passStep
  cases fetch s with
  | stopped t => exact ⟨t, rfl⟩
  | command i t => exact exec_next i t

theorem blockStep_idle {s : State} (h : s.phase = .idle) : blockStep s = .next (takeInput s) := by
  simp [blockStep, h]

theorem blockStep_pass {s : State} (h : s.phase ≠ .idle) : blockStep s = passStep s := by
  unfold blockStep
  split <;> first | contradiction | rfl

theorem step_block {s : State} (h : BlockTurn s) : step s = blockStep s.turnTaken := by
  unfold step
  rcases h with h | h
  · have e : s.turnTaken = s := by cases s; simp_all [State.turnTaken]
    rw [e]
    simp [h]
  · cases ht : s.turns with
    | nil => simp [ht] at h
    | cons a l =>
      simp only [ht, List.head?_cons, Option.some.injEq] at h
      subst h
      simp [State.turnTaken, ht]

theorem step_pass {s : State} (hb : BlockTurn s) (hp : s.phase ≠ .idle) : step s = passStep s.turnTaken := by
  rw [step_block hb, blockStep_pass (by simpa using hp)]

theorem step_idle {s : State} (hb : BlockTurn s) (hp : s.phase = .idle) : step s = .next (takeInput s.turnTaken) := by
  rw [step_block hb, blockStep_idle (by simpa using hp)]

/-- Everything a step can do. -/
theorem step_cases {s t : State} (h : step s = .next t) :
    (BlockTurn s ∧ s.phase = .idle ∧ t = takeInput s.turnTaken) ∨
    (BlockTurn s ∧ s.phase ≠ .idle ∧ passStep s.turnTaken = .next t) ∨
    (s.turns.head? = some .tick ∧ t = tick s.turnTaken) ∨
    (s.turns.head? = some .connectionLost ∧ t = loseConnection s.turnTaken) := by
  by_cases hb : BlockTurn s
  · rw [step_block hb] at h
    by_cases hp : s.phase = .idle
    · rw [blockStep_idle (by simpa using hp)] at h
      exact .inl ⟨hb, hp, by cases h; rfl⟩
    · rw [blockStep_pass (by simpa using hp)] at h
      exact .inr (.inl ⟨hb, hp, h⟩)
  · cases ht : s.turns with
    | nil => exact absurd (.inl ht) hb
    | cons a l =>
      unfold step at h
      simp only [ht] at h
      cases a with
      | block => exact absurd (.inr (by simp [ht])) hb
      | tick => cases h; exact .inr (.inr (.inl ⟨by simp, by simp [State.turnTaken, ht]⟩))
      | connectionLost => cases h; exact .inr (.inr (.inr ⟨by simp, by simp [State.turnTaken, ht]⟩))

theorem step_next (s : State) : ∃ t, step s = .next t := by
  unfold step
  split
  · unfold blockStep; split <;> first | exact ⟨_, rfl⟩ | exact passStep_next _
  · unfold blockStep; split <;> first | exact ⟨_, rfl⟩ | exact passStep_next _
  · exact ⟨_, rfl⟩
  · exact ⟨_, rfl⟩

/-! ### Runs -/

theorem reaches_zero {s t : State} : Reaches 0 s t ↔ t = s := by
  simp only [Reaches, Host.Core.run]
  constructor
  · intro h; cases h; rfl
  · intro h; rw [h]

theorem reaches_succ {n : Nat} {s t : State} : Reaches (n + 1) s t ↔ ∃ u, step s = .next u ∧ Reaches n u t := by
  obtain ⟨u, hu⟩ := step_next s
  simp only [Reaches, Host.Core.run]
  have e : Sys2Proof.core.step s = .next u := hu
  rw [e]
  constructor
  · exact fun h => ⟨u, hu, h⟩
  · rintro ⟨v, hv, h⟩
    rw [hu] at hv
    cases hv
    exact h

theorem reaches_add {m n : Nat} {s u t : State} (h1 : Reaches m s u) (h2 : Reaches n u t) : Reaches (m + n) s t := by
  induction m generalizing s with
  | zero => rw [reaches_zero] at h1; subst h1; simpa using h2
  | succ m ih =>
    obtain ⟨v, hv, hr⟩ := reaches_succ.mp h1
    rw [Nat.add_right_comm]
    exact reaches_succ.mpr ⟨v, hv, ih hr⟩

/-- What holds at the start and is kept by every step holds at the end of every run. -/
theorem reaches_induction {P : State → Prop} (hstep : ∀ s t, P s → step s = .next t → P t) {n : Nat} {s t : State}
    (h : Reaches n s t) (h0 : P s) : P t := by
  induction n generalizing s with
  | zero => rw [reaches_zero] at h; exact h ▸ h0
  | succ n ih =>
    obtain ⟨u, hu, hr⟩ := reaches_succ.mp h
    exact ih hr (hstep s u h0 hu)

end Sys2Proof.Machine
end

