-- ==== Sys2Proof/Laws/Pass.lean ====
section
/-! SUPPORT. What one iteration of the pass leaves behind, as one record of facts, whichever of its branches it takes. -/
namespace Sys2Proof.Machine

/-- `t` is `s` after `k` bytes have been removed and the events `new` emitted. -/
structure PassEffect (s t : State) (k : Nat) (new : List Event) : Prop where
  cfg         : t.cfg = s.cfg
  removed     : k ≤ s.buf.length
  buf         : t.buf = s.buf.drop k
  pos         : t.pos = s.pos + k
  posBase     : t.posBase = s.posBase
  ingested    : t.ingested = s.ingested
  swap16      : t.swap16 = s.swap16
  infoSeq     : t.infoSeq = s.infoSeq + (infoSeqs new).length
  out         : t.out = s.out ++ new
  ovf         : t.ovf = s.ovf
  queue       : t.queue = new.foldl (routeRegion s.cfg.qcap) s.queue
  pendingInfo : t.pendingInfo = new.foldl routeInfo s.pendingInfo
  canvas      : t.canvas = s.canvas
  shown       : t.shown = s.shown
  inputs      : t.inputs = s.inputs
  turns       : t.turns = s.turns

theorem PassEffect.refl (s : State) : PassEffect s s 0 [] := by constructor <;> simp [infoSeqs]

theorem infoSeqs_append (a b : List Event) : infoSeqs (a ++ b) = infoSeqs a ++ infoSeqs b := by
  induction a with
  | nil => rfl
  | cons e l ih => cases e <;> simp [infoSeqs, ih]

theorem PassEffect.trans {s u t : State} {j k : Nat} {l m : List Event} (h : PassEffect s u j l) (g : PassEffect u t k m) :
    PassEffect s t (j + k) (l ++ m) where
  cfg := g.cfg.trans h.cfg
  removed := by have := g.removed; have := h.removed; simp [h.buf] at *; omega
  buf := by rw [g.buf, h.buf, List.drop_drop]
  pos := by rw [g.pos, h.pos, Nat.add_assoc]
  posBase := g.posBase.trans h.posBase
  ingested := g.ingested.trans h.ingested
  swap16 := g.swap16.trans h.swap16
  infoSeq := by rw [g.infoSeq, h.infoSeq, infoSeqs_append, List.length_append, Nat.add_assoc]
  out := by rw [g.out, h.out, List.append_assoc]
  ovf := g.ovf.trans h.ovf
  queue := by rw [g.queue, h.queue, h.cfg, List.foldl_append]
  pendingInfo := by rw [g.pendingInfo, h.pendingInfo, List.foldl_append]
  canvas := g.canvas.trans h.canvas
  shown := g.shown.trans h.shown
  inputs := g.inputs.trans h.inputs
  turns := g.turns.trans h.turns

theorem discardBefore_effect {p : Nat} {s : State} (h : p ≤ s.buf.length) :
    PassEffect s (s.discardBefore p) p (if 0 < p then [Event.diag .preSync p] else []) := by
  rw [discardBefore_eq]
  by_cases hp : 0 < p
  · simp only [if_pos hp]
    constructor <;> simp [infoSeqs, routeRegion, routeInfo, h]
  · simp only [if_neg hp]
    constructor <;> simp [infoSeqs, h]

/-- What a command leaves behind when a whole header is at `BUF[0]`: it stops having done nothing, or it removes some bytes and emits one event. -/
theorem exec_effect {i : Instr} {s t : State} (hl : headerSize ≤ s.buf.length) (h : exec i s = .next t) :
    (t = s.stopPass ∧ PassEffect s t 0 []) ∨
    ∃ k e, 0 < k ∧ PassEffect s t k [e] ∧ ((t.phase = .atL ∧ t.hr = s.hr) ∨ (t.phase = .atA ∧ k = 1 ∧ t.hr = s.hr)) := by
  have hl : 17 ≤ s.buf.length := hl
  rcases exec_cases h with ⟨x1, y1, x2, y2, n, -, rfl⟩ | ⟨fmt, x1, y1, x2, y2, n, -, rfl⟩ | ⟨cmd, -, rfl⟩
  · refine .inr ⟨headerSize, .info ⟨x1, y1, x2, y2, n, s.infoSeq + 1⟩, by decide, ?_, .inl ⟨by simp, by simp⟩⟩
    constructor <;> simp [infoSeqs, routeRegion, routeInfo, headerSize, hl]
  · by_cases hw : s.buf.length < recordLength n
    · rw [runFrame_waits hw]
      exact .inl ⟨rfl, by constructor <;> simp [infoSeqs]⟩
    · rw [runFrame_whole (by omega)]
      have hr : 0 < recordLength n := by simp [recordLength, headerSize]
      refine .inr ⟨recordLength n, frameEvent s.cfg s.swap16 (s.frameRecord fmt x1 y1 x2 y2 n) (s.frameEnd n), hr, ?_, .inl ⟨by simp, by simp⟩⟩
      rcases frameEvent_cases s.cfg s.swap16 (s.frameRecord fmt x1 y1 x2 y2 n) (s.frameEnd n) with ⟨code, he⟩ | ⟨r, he, -⟩ <;> rw [he] <;>
        constructor <;> first | omega | simp [infoSeqs, routeRegion, routeInfo]
  · refine .inr ⟨1, .diag .unknownCmd 1, by decide, ?_, .inr ⟨by simp, rfl, by simp⟩⟩
    constructor <;> first | omega | simp [infoSeqs, routeRegion, routeInfo]

/-- What an iteration of the pass leaves behind. If the pass goes on, at least one byte is gone (40_framer.md R74). -/
theorem passStep_effect {s t : State} (h : passStep s = .next t) :
    ∃ k new, PassEffect s t k new ∧ new.length ≤ 2 ∧ (outPort new).length ≤ 1 ∧ (t.phase ≠ .idle → 0 < k) := by
  rcases passStep_cases h with ⟨-, -, rfl⟩ | ⟨-, -, rfl⟩ | ⟨p, -, hp, ⟨-, rfl⟩ | ⟨hl, he⟩⟩
  · exact ⟨0, [], by constructor <;> simp [infoSeqs], by simp, by simp [outPort], by simp⟩
  · refine ⟨s.buf.length - 3, [.diag .noSync (s.buf.length - 3)], ?_, by simp, by simp [outPort, Event.onOut], by simp⟩
    constructor <;> simp [infoSeqs, routeRegion, routeInfo]
  · have d := discardBefore_effect (p := p) (s := s) (by have := (findMarker_some hp).1; omega)
    refine ⟨p, _, d.trans (t := (s.discardBefore p).stopPass) (k := 0) (m := []) ?_, ?_, ?_, by simp⟩
    · constructor <;> simp [infoSeqs]
    · split <;> simp
    · split <;> simp [outPort, Event.onOut]
  · have d := discardBefore_effect (p := p) (s := s) (by have := (findMarker_some hp).1; omega)
    have d' : PassEffect s ((s.discardBefore p).loadHR (parseHeader (s.buf.drop p))) p _ :=
      { cfg := d.cfg, removed := d.removed, buf := d.buf, pos := d.pos, posBase := d.posBase, ingested := d.ingested,
        swap16 := d.swap16, infoSeq := d.infoSeq, out := d.out,
        ovf := d.ovf, queue := d.queue, pendingInfo := d.pendingInfo, canvas := d.canvas, shown := d.shown, inputs := d.inputs,
        turns := d.turns }
    have hb : headerSize ≤ ((s.discardBefore p).loadHR (parseHeader (s.buf.drop p))).buf.length := by
      rw [d'.buf, List.length_drop]; omega
    rcases exec_effect hb he with ⟨rfl, e⟩ | ⟨k, ev, hk, e, -⟩
    · refine ⟨p + 0, _, d'.trans e, ?_, ?_, by simp⟩
      · split <;> simp
      · split <;> simp [outPort, Event.onOut]
    · refine ⟨p + k, _, d'.trans e, ?_, ?_, fun _ => by omega⟩
      · split <;> simp
      · have one : ∀ x : Event, (outPort [x]).length ≤ 1 := fun x => List.length_filter_le _ _
        split
        · exact one ev
        · exact one ev

end Sys2Proof.Machine
end

