-- ==== Sys2Proof/Laws/Fetch.lean ====
section
/-! SUPPORT. The dispatch, the decoder and the fetch as case analyses, and where a pass stops. -/
namespace Sys2Proof

/-- The codes differ from the two fixed ones and from each other (00_scope.md R3). -/
theorem Codes.pairwise_ne (c : Codes) :
    c.rle16 ≠ cmdInfo ∧ c.rle16 ≠ cmdRaw16 ∧ c.raw8 ≠ cmdInfo ∧ c.raw8 ≠ cmdRaw16 ∧ c.rle8 ≠ cmdInfo ∧ c.rle8 ≠ cmdRaw16 ∧
      c.rle16 ≠ c.raw8 ∧ c.rle16 ≠ c.rle8 ∧ c.raw8 ≠ c.rle8 := by
  have h := c.distinct
  simp only [List.nodup_cons, List.mem_cons, List.not_mem_nil, not_or] at h
  grind

/-- A dispatch answers an INFO, a FRAME of some format, or an unknown command. -/
theorem dispatch_cases (c : Config) (h : Header) :
    (∃ x1 y1 x2 y2 n, dispatch c h = .info x1 y1 x2 y2 n) ∨
    (∃ fmt x1 y1 x2 y2 n, dispatch c h = Fmt.instr fmt x1 y1 x2 y2 n) ∨ ∃ k, dispatch c h = .unknown k := by
  unfold dispatch
  split_ifs
  · exact .inl ⟨_, _, _, _, _, rfl⟩
  · exact .inr (.inl ⟨.raw16, _, _, _, _, _, rfl⟩)
  · exact .inr (.inl ⟨.rle16, _, _, _, _, _, rfl⟩)
  · exact .inr (.inl ⟨.raw8, _, _, _, _, _, rfl⟩)
  · exact .inr (.inl ⟨.rle8, _, _, _, _, _, rfl⟩)
  · exact .inr (.inr ⟨_, rfl⟩)

/-- When the decoder answers an instruction. -/
theorem decode_eq_instr {c : Config} {b rest : List Byte} {i : Instr} :
    decode c b = .instr i rest ↔
      headerSize ≤ b.length ∧ le32At b 0 = c.marker ∧ i = dispatch c (parseHeader b) ∧ rest = b.drop headerSize := by
  unfold decode
  constructor
  · intro h
    split at h
    · cases h
    split at h
    · cases h
      exact ⟨by omega, by assumption, rfl, rfl⟩
    · cases h
  · rintro ⟨hl, hm, rfl, rfl⟩
    rw [if_neg (by omega), if_pos hm]

/-- More bytes behind a header do not change what it decodes to (40_framer.md R64). -/
theorem decode_append {c : Config} {b rest : List Byte} {i : Instr} (more : List Byte) (h : decode c b = .instr i rest) :
    decode c (b ++ more) = .instr i (rest ++ more) := by
  obtain ⟨hl, hm, rfl, rfl⟩ := decode_eq_instr.mp h
  have hl' : 17 ≤ b.length := hl
  rw [decode_eq_instr, parseHeader_append _ hl, le32At_append_left (by omega), List.drop_append_of_le_length hl]
  exact ⟨by simp [headerSize]; omega, hm, rfl, rfl⟩

end Sys2Proof

namespace Sys2Proof.Machine

/-- With a header at `BUF[0]` the pass runs its command. -/
theorem passStep_decoded {s : State} {i : Instr} {rest : List Byte} (h : decode s.cfg s.buf = .instr i rest) :
    passStep s = exec i (s.loadHR (parseHeader s.buf)) := by
  obtain ⟨hl, hm, rfl, -⟩ := decode_eq_instr.mp h
  have hl' : 17 ≤ s.buf.length := hl
  have hf : findMarker s.cfg.marker s.buf = some 0 := findMarker_zero (by omega) hm
  have e : parseAndDispatch (s.discardBefore 0) = .command (dispatch s.cfg (parseHeader s.buf)) (s.loadHR (parseHeader s.buf)) :=
    if_neg (by rw [discardBefore_zero]; omega)
  simp only [passStep, fetch, scanFrom, hf]
  rw [if_neg (fun h => by omega)]
  simp only [e]

/-- Where an iteration of the pass stops, the buffer is quiescent (40_framer.md R79). -/
theorem passStep_stops {s t : State} (h : passStep s = .next t) (hi : t.phase = .idle) : Quiescent t := by
  rcases passStep_cases h with ⟨_, hl, rfl⟩ | ⟨_, hn, rfl⟩ | ⟨p, hL, hf, ⟨hl, rfl⟩ | ⟨hl, he⟩⟩
  · exact .inl hl
  · left
    simp [headerSize]
    omega
  · left
    simp [discardBefore_eq, headerSize] at *
    omega
  · right
    rcases exec_cases he with ⟨_, _, _, _, _, _, rfl⟩ | ⟨fmt, x1, y1, x2, y2, n, hd, rfl⟩ | ⟨_, _, rfl⟩
    · simp at hi
    · by_cases hw : ((s.discardBefore p).loadHR (parseHeader (s.buf.drop p))).buf.length < recordLength n
      · rw [runFrame_waits hw]
        refine ⟨fmt, x1, y1, x2, y2, n, (s.buf.drop p).drop headerSize, ?_, by simpa using hw⟩
        have hm := (findMarker_some hf).2.1
        simp only [State.stopPass_cfg, State.stopPass_buf, State.loadHR_buf, State.loadHR_cfg, discardBefore_eq]
        rw [decode_eq_instr, le32At_drop]
        exact ⟨by simp [headerSize] at *; omega, hm, hd.symm, rfl⟩
      · rw [runFrame_whole (by omega)] at hi
        simp at hi
    · simp at hi

end Sys2Proof.Machine
end

