-- ==== Sys2Proof/Laws/PerInstr.lean ====
section
/-! SUPPORT. Statements about every instruction as syntax, one lemma per constructor. -/
namespace Sys2Proof.Laws.EncodeShape

/-- The header of an instruction is 17 bytes that begin with the start marker and its `cmd` byte (30_encoding.md R41). -/
def Statement (i : Instr) : Prop :=
  ∀ c : Config, (encode c i).length = headerSize ∧ le32At (encode c i) 0 = c.marker ∧ byteAt (encode c i) 4 = i.cmd c

theorem info (x1 y1 x2 y2 : U16) (n : U32) : Statement (.info x1 y1 x2 y2 n) :=
  fun c => ⟨rfl, le32_extract c.marker, rfl⟩

theorem frameRaw16 (x1 y1 x2 y2 : U16) (n : U32) : Statement (.frameRaw16 x1 y1 x2 y2 n) :=
  fun c => ⟨rfl, le32_extract c.marker, rfl⟩

theorem frameRle16 (x1 y1 x2 y2 : U16) (n : U32) : Statement (.frameRle16 x1 y1 x2 y2 n) :=
  fun c => ⟨rfl, le32_extract c.marker, rfl⟩

theorem frameRaw8 (x1 y1 x2 y2 : U16) (n : U32) : Statement (.frameRaw8 x1 y1 x2 y2 n) :=
  fun c => ⟨rfl, le32_extract c.marker, rfl⟩

theorem frameRle8 (x1 y1 x2 y2 : U16) (n : U32) : Statement (.frameRle8 x1 y1 x2 y2 n) :=
  fun c => ⟨rfl, le32_extract c.marker, rfl⟩

theorem unknown (cmd : Byte) : Statement (.unknown cmd) :=
  fun c => ⟨rfl, le32_extract c.marker, rfl⟩

end Sys2Proof.Laws.EncodeShape
end

