-- ==== Sys2Proof/Laws/Ports.lean ====
section
/-! SUPPORT. What a transaction and a turn of the consumer leave alone. -/
namespace Sys2Proof.Machine

/-- Between passes the block is idle, or takes the next transaction. -/
theorem takeInput_cases (s : State) :
    (s.inputs = [] ∧ takeInput s = s) ∨ ∃ x rest, s.inputs = x :: rest ∧ takeInput s = transact x { s with inputs := rest } := by
  unfold takeInput
  cases h : s.inputs with
  | nil => simp
  | cons x rest => exact .inr ⟨x, rest, rfl, rfl⟩

/-- The step that takes a transaction. -/
theorem step_takes {s : State} {x : Transaction} {rest : List Transaction} (hb : BlockTurn s) (hp : s.phase = .idle)
    (hi : s.inputs = x :: rest) : step s = .next (transact x { s with turns := s.turns.tail, inputs := rest }) := by
  rw [step_idle hb hp]
  simp [takeInput, State.turnTaken, hi]

/-- No transaction touches the transactions still to come, the turns or the parameters. -/
theorem transact_frame (x : Transaction) (s : State) :
    (transact x s).inputs = s.inputs ∧ (transact x s).turns = s.turns ∧ (transact x s).cfg = s.cfg := by
  cases x with
  | chunk first rest => simp only [transact, acceptChunk]; split <;> simp
  | ctrl v => exact ⟨rfl, rfl, rfl⟩
  | rst k =>
    cases k with
    | full => simp only [transact, resetBy, State.fullReset, State.consumerOnFull]; split <;> simp
    | liveness => exact ⟨rfl, rfl, rfl⟩
    | reconnect => exact ⟨State.reconnect_inputs s, State.reconnect_turns s, State.reconnect_cfg s⟩

theorem step_tick {s : State} (h : s.turns.head? = some .tick) : step s = .next (tick s.turnTaken) := by
  obtain ⟨r, e⟩ : ∃ r, s.turns = .tick :: r := by cases hs : s.turns <;> simp_all
  unfold step
  simp only [e]
  simp [State.turnTaken, e]

theorem step_connectionLost {s : State} (h : s.turns.head? = some .connectionLost) : step s = .next (loseConnection s.turnTaken) := by
  obtain ⟨r, e⟩ : ∃ r, s.turns = .connectionLost :: r := by cases hs : s.turns <;> simp_all
  unfold step
  simp only [e]
  simp [State.turnTaken, e]

/-- The elements of the block, of the parameters and of the environment, which no turn of the consumer touches. -/
structure SameBlock (s t : State) : Prop where
  cfg      : t.cfg = s.cfg
  buf      : t.buf = s.buf
  pos      : t.pos = s.pos
  posBase  : t.posBase = s.posBase
  ingested : t.ingested = s.ingested
  hr       : t.hr = s.hr
  swap16   : t.swap16 = s.swap16
  infoSeq  : t.infoSeq = s.infoSeq
  out      : t.out = s.out
  ovf      : t.ovf = s.ovf
  phase    : t.phase = s.phase
  freeCtr  : t.freeCtr = s.freeCtr
  inputs   : t.inputs = s.inputs
  turns    : t.turns = s.turns

theorem tick_sameBlock (s : State) : SameBlock s (tick s) := by
  rw [tick_eq]
  constructor <;> rfl

theorem loseConnection_sameBlock (s : State) : SameBlock s (loseConnection s) := by
  unfold loseConnection
  split <;> constructor <;> rfl

end Sys2Proof.Machine
end

