-- ==== Sys2Proof/Tests/Slice0.lean ====
section
/-! SUPPORT. Tests with expected values from spec/95_test_vectors.md, checks that refuse ill-formed terms, and for every
statement with hypotheses a witness that meets them together. -/
namespace Sys2Proof.Tests

open Sys2Proof Sys2Proof.Machine

/-- A pass at its loop head over these bytes, from reset. -/
def passOn (b : List Byte) : State := { State.reset with buf := b, phase := .atL }

/-- Between passes, with these bytes in `BUF` and these transactions offered, from reset. -/
def holding (b : List Byte) (ts : List Transaction) : State := { State.reset with buf := b, inputs := ts }

/-- One look at the state a step answers. -/
def look {α : Type} (o : Host.Outcome State Fault Refusal) (f : State → α) : Option α :=
  match o with
  | .next t    => some (f t)
  | .fault _   => none
  | .refused _ => none

/-- The consumer's state with a canvas of the given size. -/
def sized (w h n : Nat) : Canvas := .sized (allocate (w, h, 8) n)

def red : RGB888 := ⟨255, 0, 0⟩
def green : RGB888 := ⟨0, 255, 0⟩
def blue : RGB888 := ⟨0, 0, 255⟩

/-! ### Records of spec/95_test_vectors.md -/

/-- L1-5. -/
def raw16Rec : List Byte :=
  [0x4D, 0x41, 0x52, 0x4B, 0x02, 0x00, 0x00, 0x00, 0x00, 0x01, 0x00, 0x00, 0x00, 0x04, 0x00, 0x00, 0x00] ++
  [0x00, 0xF8, 0xE0, 0x07, 0x45, 0x4E, 0x44, 0x21]

/-- L2-R16-1. -/
def raw16One : List Byte :=
  [0x4D, 0x41, 0x52, 0x4B, 0x02, 0x00, 0x00, 0x00, 0x00, 0x00, 0x00, 0x00, 0x00, 0x02, 0x00, 0x00, 0x00] ++
  [0x34, 0x12, 0x45, 0x4E, 0x44, 0x21]

/-- L2-R8-1. -/
def raw8Rec : List Byte :=
  [0x4D, 0x41, 0x52, 0x4B, 0x04, 0x05, 0x00, 0x05, 0x00, 0x05, 0x00, 0x06, 0x00, 0x02, 0x00, 0x00, 0x00] ++
  [0x03, 0xFF, 0x45, 0x4E, 0x44, 0x21]

/-- L1-7. -/
def rle8Rec : List Byte :=
  [0x4D, 0x41, 0x52, 0x4B, 0x05, 0x00, 0x00, 0x00, 0x00, 0x01, 0x00, 0x01, 0x00, 0x04, 0x00, 0x00, 0x00] ++
  [0x03, 0xE0, 0x01, 0x1C, 0x45, 0x4E, 0x44, 0x21]

/-- L2-RL16-1. -/
def rle16Rec : List Byte :=
  [0x4D, 0x41, 0x52, 0x4B, 0x03, 0x00, 0x00, 0x00, 0x00, 0x00, 0x00, 0x00, 0x00, 0x03, 0x00, 0x00, 0x00] ++
  [0x01, 0x00, 0xF8, 0x45, 0x4E, 0x44, 0x21]

/-- L2-I-1. -/
def infoRec : List Byte :=
  [0x4D, 0x41, 0x52, 0x4B, 0x01, 0x00, 0x00, 0x00, 0x00, 0xEF, 0x00, 0xEF, 0x00, 0x10, 0x00, 0x00, 0x00]

/-- L2-S-6. -/
def unknownRec : List Byte :=
  [0x4D, 0x41, 0x52, 0x4B, 0x07, 0x00, 0x00, 0x00, 0x00, 0x00, 0x00, 0x00, 0x00, 0x00, 0x00, 0x00, 0x00]

/-! ### Decoding: words written out from 30_encoding.md R41 and R45 -/

/-- L2-E-2. -/
theorem test_decode_info : decode Config.test [0x4D, 0x41, 0x52, 0x4B, 0x01, 0x00, 0x00, 0x00, 0x00, 0x3F, 0x01, 0xEF, 0x00, 0x02, 0x00, 0x00, 0x00]
    = .instr (.info 0 0 319 239 2) [] := by decide

/-- L2-E-1. -/
theorem test_decode_raw16 : decode Config.test [0x4D, 0x41, 0x52, 0x4B, 0x02, 0x34, 0x12, 0x78, 0x56, 0xBC, 0x9A, 0xF0, 0xDE, 0x04, 0x03, 0x02, 0x01]
    = .instr (.frameRaw16 0x1234 0x5678 0x9ABC 0xDEF0 0x01020304) [] := by decide

/-- L2-RL16-1. -/
theorem test_decode_rle16 : decode Config.test rle16Rec = .instr (.frameRle16 0 0 0 0 3) [0x01, 0x00, 0xF8, 0x45, 0x4E, 0x44, 0x21] := by decide

/-- L2-R8-1. -/
theorem test_decode_raw8 : decode Config.test raw8Rec = .instr (.frameRaw8 5 5 5 6 2) [0x03, 0xFF, 0x45, 0x4E, 0x44, 0x21] := by decide

/-- L1-7. -/
theorem test_decode_rle8 : decode Config.test rle8Rec = .instr (.frameRle8 0 0 1 1 4) [0x03, 0xE0, 0x01, 0x1C, 0x45, 0x4E, 0x44, 0x21] := by decide

/-- L2-S-6, and the first header of L2-S-7. -/
theorem test_decode_unknown : decode Config.test unknownRec = .instr (.unknown 0x07) [] ∧
    decode Config.test ([0x4D, 0x41, 0x52, 0x4B] ++ infoRec) = .instr (.unknown 0x4D) [0x10, 0x00, 0x00, 0x00] := by decide

/-- 16 bytes are no header, and 17 bytes without the marker are none (R44, 20_memory.md R26). -/
theorem test_decode_refuses : decode Config.test (infoRec.take 16) = .truncated ∧
    decode Config.test (List.replicate 17 0x11) = .badMarker := by decide

/-- Rows of spec/opcode_table.json: bit 0 of the word is bit 0 of the cmd byte. -/
theorem test_table_words : decodeTableWord 104 0x0000001000EF00EF0000000001 = some (.info 0 0 0xEF 0xEF 0x00000010) ∧
    decodeTableWord 8 0x07 = some (.unknown 0x07) ∧
    decodeTableWord 104 0x01020304DEF09ABC5678123402 = some (.frameRaw16 0x1234 0x5678 0x9ABC 0xDEF0 0x01020304) := by decide

/-- The encoder writes the records of L2-I-1 and L1-5 (R54). -/
theorem test_encode : encode Config.test (.info 0 0 239 239 16) = infoRec ∧
    encodeRecord Config.test ⟨.raw16, 0, 0, 1, 0, 4, [0x00, 0xF8, 0xE0, 0x07], 0x21444E45⟩ = raw16Rec := by decide

/-! ### WellFormed refuses ill-formed terms -/

/-- An "unknown" command with one of the five codes is refused; 0x00, 0x06 and 0xFF are unknown (R53). -/
theorem test_wf_unknown : ([0x01, 0x02, 0x03, 0x04, 0x05].map fun k => Instr.wf Config.test (.unknown k)) = [false, false, false, false, false] ∧
    ([0x00, 0x06, 0xFF].map fun k => Instr.wf Config.test (.unknown k)) = [true, true, true] := by decide

/-- A record whose payload is shorter or longer than its `data_len` is refused (R43). -/
theorem test_wf_record : FrameRecord.wf ⟨.raw8, 0, 0, 0, 0, 1, [0xE0], 0x21444E45⟩ = true ∧
    FrameRecord.wf ⟨.raw8, 0, 0, 0, 0, 1, [], 0x21444E45⟩ = false ∧
    FrameRecord.wf ⟨.raw8, 0, 0, 0, 0, 1, [0xE0, 0x1C], 0x21444E45⟩ = false := by decide

/-- A record of length 0, and one with another end marker, are not valid (40_framer.md R76). -/
theorem test_valid_record : FrameRecord.valid Config.test ⟨.raw8, 0, 0, 0, 0, 1, [0xE0], 0x21444E45⟩ = true ∧
    FrameRecord.valid Config.test ⟨.raw8, 0, 0, 0, 0, 0, [], 0x21444E45⟩ = false ∧
    FrameRecord.valid Config.test ⟨.raw8, 0, 0, 0, 0, 1, [0xE0], 0x20444E45⟩ = false := by decide

/-! ### The commands, one step each -/

/-- L2-I-2: an INFO leaves the bytes after its header alone. -/
theorem test_info : look (step (passOn (encode Config.test (.info 0 0 1 1 5) ++ [1, 2, 3, 4, 5]))) (fun t => (t.out, t.buf, t.pos, t.infoSeq))
    = some ([.info ⟨0, 0, 1, 1, 5, 1⟩], [1, 2, 3, 4, 5], 17, 1) := by decide

/-- L2-I-3: nothing of an INFO is checked. -/
theorem test_info_unchecked : look (step (passOn (encode Config.test (.info 5 5 0 0 8)))) (fun t => t.out)
    = some [.info ⟨5, 5, 0, 0, 8, 1⟩] := by decide

/-- L1-5. -/
theorem test_raw16 : look (step (passOn raw16Rec)) (fun t => (t.out, t.buf, t.pos))
    = some ([.region ⟨.raw16, 0, 0, 2, 1, [red, green], 0⟩], [], 25) := by decide

/-- L2-R16-2: with `SWAP16 = 1` the pixel is 0x3412. -/
theorem test_raw16_swapped : look (step { passOn raw16One with swap16 := true }) (fun t => t.out)
    = some [.region ⟨.raw16, 0, 0, 1, 1, [⟨49, 130, 148⟩], 0⟩] := by decide

/-- L1-11: a marker inside a payload is payload. -/
theorem test_raw8 : look (step (passOn (encodeRecord Config.test ⟨.raw8, 0, 0, 3, 0, 4, [0x4D, 0x41, 0x52, 0x4B], 0x21444E45⟩))) (fun t => (t.out, t.buf))
    = some ([.region ⟨.raw8, 0, 0, 4, 1, [⟨72, 109, 85⟩, ⟨72, 0, 85⟩, ⟨72, 145, 170⟩, ⟨72, 72, 255⟩], 0⟩], []) := by decide

/-- L2-R8-3: a short payload. -/
theorem test_raw8_short : look (step (passOn (encodeRecord Config.test ⟨.raw8, 0, 0, 1, 1, 3, [0xE0, 0x1C, 0x03], 0x21444E45⟩))) (fun t => t.out)
    = some [.diag .decShort 24] := by decide

/-- L1-7, L2-RL8-1: a run across a row boundary. -/
theorem test_rle8 : look (step (passOn rle8Rec)) (fun t => t.out) = some [.region ⟨.rle8, 0, 0, 2, 2, [red, red, red, green], 0⟩] := by decide

/-- L2-RL8-7: an odd length is checked before a short expansion. -/
theorem test_rle8_odd : look (step (passOn (encodeRecord Config.test ⟨.rle8, 0, 0, 1, 1, 3, [0x01, 0xE0, 0x07], 0x21444E45⟩))) (fun t => t.out)
    = some [.diag .decRleOdd 24] := by decide

/-- L2-RL16-1. -/
theorem test_rle16 : look (step (passOn rle16Rec)) (fun t => (t.out, t.buf)) = some ([.diag .decUnsupported 24], []) := by decide

/-- L2-RL16-2: the rectangle is checked first. -/
theorem test_rle16_badrect : look (step (passOn (encodeRecord Config.test ⟨.rle16, 1, 0, 0, 0, 3, [0x01, 0x00, 0xF8], 0x21444E45⟩))) (fun t => t.out)
    = some [.diag .decBadRect 24] := by decide

/-- L2-S-6, its first step: one byte goes, and the scan goes on at A with 16 bytes. -/
theorem test_unknown : look (step (passOn unknownRec)) (fun t => (t.out, t.buf.length, t.pos, t.phase))
    = some ([.diag .unknownCmd 1], 16, 1, .atA) := by decide

/-- L2-S-6, its second step: no marker is left. -/
theorem test_rescan : look (step { passOn (unknownRec.drop 1) with pos := 1, phase := .atA }) (fun t => (t.out, t.buf, t.pos))
    = some ([.diag .noSync 13], [0, 0, 0], 14) := by decide

/-- L2-V-4: the end marker is checked before the zero length. -/
theorem test_bad_end : look (step (passOn (encodeRecord Config.test ⟨.raw16, 0, 0, 0, 0, 0, [], 0⟩))) (fun t => t.out)
    = some [.diag .badEnd 21] := by decide

/-- L2-V-3. -/
theorem test_zero_len : look (step (passOn (encodeRecord Config.test ⟨.raw16, 0, 0, 0, 0, 0, [], 0x21444E45⟩))) (fun t => t.out)
    = some [.diag .zeroLen 21] := by decide

/-- L1-6: a garbage prefix. -/
theorem test_presync : look (step (passOn ([0x00, 0xFF, 0x4D] ++ raw16Rec))) (fun t => (t.out, t.pos))
    = some ([.diag .preSync 3, .region ⟨.raw16, 0, 0, 2, 1, [red, green], 0⟩], 28) := by decide

/-- L2-S-5: a marker with fewer than 17 bytes behind it. -/
theorem test_marker_waits : look (step (passOn (List.replicate 10 0x11 ++ infoRec.take 7))) (fun t => (t.out, t.buf, t.pos, t.phase))
    = some ([.diag .preSync 10], infoRec.take 7, 10, .idle) := by decide

/-! ### The ports and the consumer -/

/-- L2-C-5: 16 + 17 bytes exceed a capacity of 32. -/
theorem test_overflow : look (step { holding (List.replicate 16 0x11) [.chunk 0x11 (List.replicate 16 0x11)] with cfg := { Config.test with bufCap := some 32 } })
    (fun t => (t.out, t.buf.length, t.ovf)) = some ([.diag .overflow 17], 16, true) := by decide

/-- L2-C-4. -/
theorem test_full_reset : look (step { holding [0x4D, 0x41, 0x52] [.rst .full] with pos := 14, infoSeq := 3, swap16 := true })
    (fun t => (t.buf, t.pos, t.infoSeq, t.swap16, t.ovf)) = some ([], 0, 0, false, false) := by decide

/-- R8 read alone: the count that `POS` is begins again at a RECONNECT that empties the buffer. -/
theorem test_reconnect_counts_anew : look (step { holding [0x4D, 0x41, 0x52] [.rst .reconnect] with
      cfg := { Config.test with reconnectClearsBuffer := true, posOnClear := .restart }, pos := 14, ingested := 17 })
    (fun t => (t.buf, t.pos, t.posBase, t.ingested)) = some ([], 0, 0, 0) := by decide

/-- L2-C-3: with the parameter set, RECONNECT empties the buffer; R146 keeps `POS`. -/
theorem test_reconnect : look (step { holding [0x4D, 0x41, 0x52] [.rst .reconnect] with cfg := { Config.test with reconnectClearsBuffer := true }, pos := 14 })
    (fun t => (t.buf, t.pos)) = some ([], 14) := by decide

/-- L2-D-1: a region is clipped to the canvas. -/
theorem test_tick_clips : look (step { State.reset with turns := [.tick], pendingInfo := [⟨0, 0, 1, 1, 8, 1⟩], queue := [⟨.raw8, 1, 1, 2, 2, [red, green, blue, ⟨255, 255, 255⟩], 1⟩] })
    (fun t => t.canvas) = some (.sized ⟨2, 2, 8, [(3, red)], 1⟩) := by decide

/-- L2-D-2: with one tick after both, the region is stale; under `clip` it is written. -/
theorem test_tick_stale : look (step { State.reset with
      cfg := { Config.test with stalePolicy := .clip }, turns := [.tick], pendingInfo := [⟨0, 0, 1, 1, 8, 1⟩], queue := [⟨.raw8, 0, 0, 1, 1, [red], 0⟩] })
    (fun t => t.canvas) = some (.sized ⟨2, 2, 8, [(0, red)], 1⟩) := by decide

/-- R56 for the Info of L2-I-3, by hand: 0 - 5 + 1 = -4 in both directions, so the canvas has no pixel. -/
theorem test_tick_negative : look (step { State.reset with
      turns := [.tick], pendingInfo := [⟨5, 5, 0, 0, 8, 1⟩], queue := [⟨.raw8, 0, 0, 1, 1, [red], 1⟩] })
    (fun t => t.canvas) = some (.sized ⟨-4, -4, 8, [], 1⟩) := by decide

/-- L2-X-1. -/
theorem test_expand565 : expand565 0x8410 = ⟨132, 130, 132⟩ ∧ expand565 0x1234 = ⟨16, 69, 165⟩ ∧ expand565 0x414D = ⟨66, 40, 107⟩ := by decide

/-- L2-X-2. -/
theorem test_expand332 : expand332 .floor 0x92 = ⟨145, 145, 170⟩ ∧ expand332 .nearest 0x92 = ⟨146, 146, 170⟩ := by decide

/-- L2-E-3: `total` needs 33 bits. -/
theorem test_total : recordLength 0xFFFFFFFF = 4294967316 := by decide

/-- Reset memory has the canonical form, and writing the unlisted value removes an entry. -/
theorem test_memory : Memory.wf [] ∧ Memory.write (Memory.write [] 3 red) 3 ⟨0, 0, 0⟩ = [] ∧
    Memory.write (Memory.write [] 3 red) 1 green = [(1, green), (3, red)] := by decide

/-- The word of a table row placed by `withFetchWord` runs as the first instruction after reset, whole. -/
theorem test_withFetchWord : look (step (State.reset.withFetchWord 104 0x02000600050005000504)) (fun t => (t.out, t.buf))
    = some ([.region ⟨.raw8, 5, 5, 1, 2, [⟨0, 0, 0⟩, ⟨0, 0, 0⟩], 0⟩], []) := by decide

/-! ### Witnesses: what meets the hypotheses of each statement together -/

/-- L1-9 before tick T1, with two of its pixels: a canvas, a queued region, a pending Info and three events. -/
def midStream : State :=
  { State.reset with
    pos := 57
    ingested := 57
    infoSeq := 2
    out := [.info ⟨0, 0, 319, 239, 16, 1⟩, .region ⟨.raw8, 230, 0, 2, 1, [red, red], 1⟩, .info ⟨0, 0, 239, 239, 16, 2⟩]
    queue := [⟨.raw8, 230, 0, 2, 1, [red, red], 1⟩]
    pendingInfo := [⟨0, 0, 239, 239, 16, 2⟩]
    canvas := sized 320 240 1
    turns := [.tick] }

theorem witness_DecodeEncodeRoundTrip :
    Instr.wf Config.test (.frameRaw16 0xFFFF 0xFFFF 0xFFFF 0xFFFF 0xFFFFFFFF) = true ∧ Instr.wf Config.test (.unknown 0x00) = true ∧
      Instr.wf Config.test (.unknown 0xFF) = true := by decide

theorem witness_DecodedHeaderEncodesBack :
    (∃ b rest i, decode Config.test b = .instr i rest ∧ ∀ k, i ≠ .unknown k) ∧
    (∃ b rest k, decode Config.test b = .instr (.unknown k) rest) :=
  ⟨⟨raw16Rec, _, .frameRaw16 0 0 1 0 4, by rfl, by simp⟩, ⟨unknownRec, [], 0x07, by decide⟩⟩

/-- Each of the six clauses, the last at 0x00 and 0xFF. -/
theorem witness_DispatchSelectsByCmd :
    let h (k : Byte) : Header := { Header.zero with cmd := k }
    (h 0x01).cmd = 0x01 ∧ (h 0x02).cmd = 0x02 ∧ (h 0x03).cmd = Config.test.codes.rle16 ∧ (h 0x04).cmd = Config.test.codes.raw8 ∧
      (h 0x05).cmd = Config.test.codes.rle8 ∧ ((h 0x00).cmd ∉ Config.test.known) ∧ ((h 0xFF).cmd ∉ Config.test.known) := by decide

theorem witness_StepRunsTheDecodedInstruction :
    ∃ s i rest, BlockTurn s ∧ s.phase ≠ .idle ∧ decode s.cfg s.buf = .instr i rest :=
  ⟨passOn raw16Rec, .frameRaw16 0 0 1 0 4, _, .inl rfl, by decide, by rfl⟩

/-- No marker, in 16 bytes at A and in 17 at L; a marker with exactly 17 bytes from it on, and with 16; and the last clause. -/
theorem witness_ScanTakesTheLowestMarker :
    (∃ s, BlockTurn s ∧ s.phase = .atA ∧ s.buf.length = 16 ∧ findMarker s.cfg.marker s.buf = none) ∧
    (∃ s, BlockTurn s ∧ s.phase = .atL ∧ s.buf.length = 17 ∧ findMarker s.cfg.marker s.buf = none) ∧
    (∃ s, BlockTurn s ∧ s.phase = .atL ∧ s.buf.length = 2 + 17 ∧ le32At s.buf 2 = s.cfg.marker ∧ ∀ q < 2, le32At s.buf q ≠ s.cfg.marker) ∧
    (∃ s, BlockTurn s ∧ s.phase = .atL ∧ s.buf.length + 1 = 2 + 17 ∧ le32At s.buf 2 = s.cfg.marker ∧ ∀ q < 2, le32At s.buf q ≠ s.cfg.marker) ∧
    (∃ s t, BlockTurn s ∧ s.phase ≠ .idle ∧ step s = .next t ∧ t.phase = .atA) :=
  ⟨⟨{ passOn (List.replicate 16 0x11) with phase := .atA }, .inl rfl, rfl, rfl, by decide⟩,
   ⟨passOn (List.replicate 17 0x11), .inl rfl, rfl, rfl, by decide⟩,
   ⟨passOn ([0x00, 0xFF] ++ infoRec), .inl rfl, rfl, rfl, by decide, by decide⟩,
   ⟨passOn ([0x00, 0xFF] ++ infoRec.take 16), .inl rfl, rfl, rfl, by decide, by decide⟩,
   ⟨passOn unknownRec, _, .inl rfl, by decide, rfl, rfl⟩⟩

theorem witness_LoopHeadStopsBelowSeventeenBytes :
    ∃ s, BlockTurn s ∧ s.phase = .atL ∧ s.buf.length = 16 := ⟨passOn (List.replicate 16 0x11), .inl rfl, rfl, rfl⟩

theorem witness_EveryPassStops : ∃ s : State, s.turns = [] ∧ s.phase ≠ .idle := ⟨passOn raw16Rec, rfl, by decide⟩

/-- Both kinds of stop state. -/
theorem witness_PassStopsOnlyInAStopState :
    (∃ s t, BlockTurn s ∧ s.phase ≠ .idle ∧ step s = .next t ∧ t.phase = .idle ∧ t.buf.length = 16) ∧
    (∃ s t, BlockTurn s ∧ s.phase ≠ .idle ∧ step s = .next t ∧ t.phase = .idle ∧ t.buf.length = 24 ∧ 24 < 21 + (4 : U32).toNat) :=
  ⟨⟨passOn (List.replicate 16 0x11), _, .inl rfl, by decide, rfl, rfl, rfl⟩,
   ⟨passOn (raw16Rec.take 24), _, .inl rfl, by decide, rfl, rfl, rfl, by decide⟩⟩

theorem witness_PassIsIdempotent :
    ∃ s t, BlockTurn s ∧ s.phase ≠ .idle ∧ step s = .next t ∧ t.phase = .idle ∧ t.turns = [] :=
  ⟨passOn (raw16Rec.take 24), _, .inl rfl, by decide, rfl, rfl, rfl⟩

/-- A step of each kind that the clauses tell apart: bytes removed, a chunk taken, a FULL reset, a RECONNECT that clears. -/
theorem witness_BufferGrowsAtTheBackAndShrinksAtTheFront :
    (∃ s t, step s = .next t ∧ t.buf.length < s.buf.length ∧ s.phase = .atL) ∧
    (∃ s t f r, step s = .next t ∧ s.inputs = [.chunk f r] ∧ t.buf = s.buf ++ f :: r) ∧
    (∃ s t, step s = .next t ∧ s.inputs = [.rst .full] ∧ t.buf ≠ s.buf) ∧
    (∃ s t, step s = .next t ∧ s.inputs = [.rst .reconnect] ∧ t.buf ≠ s.buf ∧ s.cfg.posOnClear = .keep) ∧
    (∃ s t, step s = .next t ∧ s.inputs = [.rst .reconnect] ∧ t.buf ≠ s.buf ∧ s.cfg.posOnClear = .restart) :=
  ⟨⟨passOn raw16Rec, _, rfl, by decide, rfl⟩, ⟨holding [0x4D] [.chunk 0x41 []], _, 0x41, [], rfl, rfl, rfl⟩,
   ⟨holding [0x4D] [.rst .full], _, rfl, rfl, by decide⟩,
   ⟨{ holding [0x4D] [.rst .reconnect] with cfg := { Config.test with reconnectClearsBuffer := true } }, _, rfl, rfl, by decide, rfl⟩,
   ⟨{ holding [0x4D] [.rst .reconnect] with cfg := { Config.test with reconnectClearsBuffer := true, posOnClear := .restart } },
    _, rfl, rfl, by decide, rfl⟩⟩

/-- A step that adds two events, and one that empties `OUT`. -/
theorem witness_OutOnlyAppends :
    (∃ s t, step s = .next t ∧ t.out.length = s.out.length + 2) ∧
    (∃ s t, step s = .next t ∧ s.out ≠ [] ∧ t.out = [] ∧ s.inputs = [.rst .full]) :=
  ⟨⟨passOn ([0x00, 0xFF, 0x4D] ++ raw16Rec), _, rfl, rfl⟩,
   ⟨{ holding [] [.rst .full] with out := [.diag .noSync 14] }, _, rfl, by decide, rfl, rfl⟩⟩

theorem witness_TransactionsWaitForThePass :
    (∃ s t, step s = .next t ∧ s.phase ≠ .idle ∧ s.inputs ≠ []) ∧
    (∃ s t, step s = .next t ∧ ¬ BlockTurn s ∧ s.inputs ≠ []) ∧
    (∃ s t, step s = .next t ∧ s.phase = .idle ∧ BlockTurn s ∧ s.inputs ≠ []) :=
  ⟨⟨{ passOn raw16Rec with inputs := [.ctrl true] }, _, rfl, by decide, by decide⟩,
   ⟨{ holding [] [.ctrl true] with turns := [.tick] }, _, rfl, fun h => by cases h <;> contradiction, by decide⟩,
   ⟨holding [] [.ctrl true], _, rfl, rfl, .inl rfl, by decide⟩⟩

theorem witness_OneValidRecordIsDecodedOnce :
    ∃ (s : State) (r : FrameRecord) (rest : List Byte), s.turns = [] ∧ s.phase = .atL ∧ r.valid s.cfg = true ∧
      s.buf = encodeRecord s.cfg r ++ rest ∧ rest.length = 16 :=
  ⟨passOn (raw16Rec ++ List.replicate 16 0x4D), ⟨.raw16, 0, 0, 1, 0, 4, [0x00, 0xF8, 0xE0, 0x07], 0x21444E45⟩, List.replicate 16 0x4D,
   rfl, rfl, by decide, by decide, rfl⟩

theorem witness_GarbagePrefixIsDiscarded :
    ∃ (s : State) (g : List Byte) (r : FrameRecord), BlockTurn s ∧ s.phase = .atL ∧ r.valid s.cfg = true ∧
      s.buf = g ++ encodeRecord s.cfg r ∧ 0 < g.length ∧ ∀ q < g.length, le32At s.buf q ≠ s.cfg.marker :=
  ⟨passOn ([0x00, 0xFF, 0x4D] ++ raw16Rec), [0x00, 0xFF, 0x4D], ⟨.raw16, 0, 0, 1, 0, 4, [0x00, 0xF8, 0xE0, 0x07], 0x21444E45⟩,
   .inl rfl, rfl, by decide, by decide, by decide, by decide⟩

/-- The record of L2-I-1 in one chunk, and in two. -/
theorem witness_ChunkingIndependence :
    ∃ (s t u : State) (cs ds : List (Byte × List Byte)) (m n : Nat),
      s.phase = .idle ∧ s.turns = [] ∧ s.inputs = [] ∧ s.cfg.bufCap = none ∧ s.ovf = false ∧
      cs.flatMap (fun c => c.1 :: c.2) = ds.flatMap (fun c => c.1 :: c.2) ∧
      (Reaches m (s.offered (cs.map fun c => .chunk c.1 c.2)) t ∧ GoodEnd t) ∧
      (Reaches n (s.offered (ds.map fun c => .chunk c.1 c.2)) u ∧ GoodEnd u) ∧ cs ≠ ds ∧ outPort t.out ≠ [] :=
  ⟨State.reset, _, _, [(0x4D, infoRec.tail)], [(0x4D, []), (0x41, infoRec.drop 2)], 3, 5,
   rfl, rfl, rfl, rfl, rfl, by decide, ⟨rfl, rfl, rfl, rfl⟩, ⟨rfl, rfl, rfl, rfl⟩, by decide, by decide⟩

theorem witness_AwaitedRecordIsNotRescanned :
    ∃ (s : State) (first : Byte) (more rest : List Byte) (ins : List Transaction) (i : Instr),
      s.turns = [] ∧ s.phase = .idle ∧ s.cfg.bufCap = none ∧ s.ovf = false ∧ decode s.cfg s.buf = .instr i rest ∧
      s.inputs = .chunk first more :: ins :=
  ⟨holding (raw16Rec.take 19) [.chunk 0x4D [0x41, 0x52, 0x4B]], 0x4D, [0x41, 0x52, 0x4B], _, [], .frameRaw16 0 0 1 0 4,
   rfl, rfl, rfl, rfl, by rfl, rfl⟩

theorem witness_RunOfTransactionsEnds :
    ∃ (s : State) (ts : List Transaction), s.turns = [] ∧ s.phase = .idle ∧ s.inputs = [] ∧ ts ≠ [] :=
  ⟨State.reset, [.chunk 0x4D infoRec.tail, .ctrl true, .rst .full], rfl, rfl, rfl, by decide⟩

/-- One byte short of `total`, for the shortest and for the longest `data_len`. -/
theorem witness_FrameWaitsForItsTotalBytes :
    (passOn (raw16Rec.take 20)).buf.length + 1 = 17 + (0 : U32).toNat + 4 ∧
    (passOn raw16Rec).buf.length < 17 + (0xFFFFFFFF : U32).toNat + 4 := by decide

theorem witness_WholeFrameIsConsumedWithOneEvent : 17 + (4 : U32).toNat + 4 = (passOn raw16Rec).buf.length := by decide

/-- A wrong end marker and a right one, both with length 0. -/
theorem witness_EndMarkerThenZeroLength :
    (∃ s : State, 17 + (0 : U32).toNat + 4 = s.buf.length ∧ le32At s.buf (17 + (0 : U32).toNat) ≠ s.cfg.endMarker) ∧
    (∃ s : State, 17 + (0 : U32).toNat + 4 = s.buf.length ∧ le32At s.buf (17 + (0 : U32).toNat) = s.cfg.endMarker) :=
  ⟨⟨passOn (encodeRecord Config.test ⟨.raw16, 0, 0, 0, 0, 0, [], 0⟩), rfl, by decide⟩,
   ⟨passOn (encodeRecord Config.test ⟨.raw16, 0, 0, 0, 0, 0, [], 0x21444E45⟩), rfl, by decide⟩⟩

/-- The rectangle off by one in x, and in y. -/
theorem witness_BadRectangleIsDropped :
    ∃ s : State, 17 + (4 : U32).toNat + 4 ≤ s.buf.length ∧ le32At s.buf (17 + (4 : U32).toNat) = s.cfg.endMarker ∧ 0 < (4 : U32).toNat ∧
      (0 : U16).toNat < (1 : U16).toNat ∧ (0xFFFE : U16).toNat < (0xFFFF : U16).toNat := ⟨passOn raw16Rec, by decide, by decide, by decide, by decide, by decide⟩

/-- `n = 2N` and `n = 2N - 1`. -/
theorem witness_Raw16DecodesItsPixels :
    (∃ (s : State) (x1 y1 x2 y2 : U16) (n : U32), 17 + n.toNat + 4 ≤ s.buf.length ∧ le32At s.buf (17 + n.toNat) = s.cfg.endMarker ∧
      0 < n.toNat ∧ x1.toNat ≤ x2.toNat ∧ y1.toNat ≤ y2.toNat ∧ 2 * ((x2.toNat - x1.toNat + 1) * (y2.toNat - y1.toNat + 1)) = n.toNat) ∧
    (∃ (s : State) (x1 y1 x2 y2 : U16) (n : U32), 17 + n.toNat + 4 ≤ s.buf.length ∧ le32At s.buf (17 + n.toNat) = s.cfg.endMarker ∧
      0 < n.toNat ∧ x1.toNat ≤ x2.toNat ∧ y1.toNat ≤ y2.toNat ∧ n.toNat + 1 = 2 * ((x2.toNat - x1.toNat + 1) * (y2.toNat - y1.toNat + 1))) :=
  ⟨⟨passOn raw16Rec, 0, 0, 1, 0, 4, by decide, by decide, by decide, by decide, by decide, by decide⟩,
   ⟨passOn rle16Rec, 0, 0, 1, 0, 3, by decide, by decide, by decide, by decide, by decide, by decide⟩⟩

/-- `n = N` and `n = N - 1`. -/
theorem witness_Raw8DecodesItsPixels :
    (∃ (s : State) (x1 y1 x2 y2 : U16) (n : U32), 17 + n.toNat + 4 ≤ s.buf.length ∧ le32At s.buf (17 + n.toNat) = s.cfg.endMarker ∧
      0 < n.toNat ∧ x1.toNat ≤ x2.toNat ∧ y1.toNat ≤ y2.toNat ∧ (x2.toNat - x1.toNat + 1) * (y2.toNat - y1.toNat + 1) = n.toNat) ∧
    (∃ (s : State) (x1 y1 x2 y2 : U16) (n : U32), 17 + n.toNat + 4 ≤ s.buf.length ∧ le32At s.buf (17 + n.toNat) = s.cfg.endMarker ∧
      0 < n.toNat ∧ x1.toNat ≤ x2.toNat ∧ y1.toNat ≤ y2.toNat ∧ n.toNat + 1 = (x2.toNat - x1.toNat + 1) * (y2.toNat - y1.toNat + 1)) :=
  ⟨⟨passOn raw8Rec, 5, 5, 5, 6, 2, by decide, by decide, by decide, by decide, by decide, by decide⟩,
   ⟨passOn raw8Rec, 5, 5, 5, 7, 2, by decide, by decide, by decide, by decide, by decide, by decide⟩⟩

/-- The hypotheses all clauses of the RLE8 statement share. -/
def rle8Hyps (s : State) (x1 y1 x2 y2 : U16) (n : U32) (S : List Byte) : Prop :=
  17 + n.toNat + 4 ≤ s.buf.length ∧ le32At s.buf (17 + n.toNat) = s.cfg.endMarker ∧ 0 < n.toNat ∧ x1.toNat ≤ x2.toNat ∧
    y1.toNat ≤ y2.toNat ∧ S = runs ((s.buf.drop 17).take n.toNat)

/-- The odd record of L2-RL8-4 under a configuration, and the record of L1-7, whose runs are 4 bytes. -/
def oddRun (c : Config) : State := { passOn (encodeRecord Config.test ⟨.rle8, 0, 0, 0, 0, 3, [0x01, 0xE0, 0x07], 0x21444E45⟩) with cfg := c }

def fourRun (c : Config) : State := { passOn rle8Rec with cfg := c }

/-- Each clause: odd under `fail`; 4 runs for N = 5, for N = 3 under `fail`, for N = 4, for N = 3 under `truncate`; odd under `ignore`. -/
theorem witness_Rle8ExpandsItsRuns :
    (∃ S, rle8Hyps (oddRun Config.test) 0 0 0 0 3 S ∧ (3 : U32).toNat % 2 = 1 ∧ (oddRun Config.test).cfg.rleOddTail = .fail) ∧
    (∃ S, rle8Hyps (fourRun Config.test) 0 0 4 0 4 S ∧ (4 : U32).toNat % 2 = 0 ∧ S.length + 1 = (4 - 0 + 1) * (0 - 0 + 1)) ∧
    (∃ c S, rle8Hyps (fourRun c) 0 0 2 0 4 S ∧ (4 : U32).toNat % 2 = 0 ∧ (2 - 0 + 1) * (0 - 0 + 1) + 1 = S.length ∧ c.rleOverrun = .fail) ∧
    (∃ S, rle8Hyps (fourRun Config.test) 0 0 1 1 4 S ∧ (4 : U32).toNat % 2 = 0 ∧ (1 - 0 + 1) * (1 - 0 + 1) = S.length) ∧
    (∃ S, rle8Hyps (fourRun Config.test) 0 0 2 0 4 S ∧ (2 - 0 + 1) * (0 - 0 + 1) + 1 = S.length ∧ Config.test.rleOverrun = .truncate) ∧
    (∃ c S, rle8Hyps (oddRun c) 0 0 0 0 3 S ∧ c.rleOddTail = .ignore ∧ (0 - 0 + 1) * (0 - 0 + 1) = S.length) :=
  ⟨⟨_, ⟨by decide, by decide, by decide, by decide, by decide, rfl⟩, by decide, rfl⟩,
   ⟨_, ⟨by decide, by decide, by decide, by decide, by decide, rfl⟩, by decide, by decide⟩,
   ⟨{ Config.test with rleOverrun := .fail }, _, ⟨by decide, by decide, by decide, by decide, by decide, rfl⟩, by decide, by decide, rfl⟩,
   ⟨_, ⟨by decide, by decide, by decide, by decide, by decide, rfl⟩, by decide, by decide⟩,
   ⟨_, ⟨by decide, by decide, by decide, by decide, by decide, rfl⟩, by decide, rfl⟩,
   ⟨{ Config.test with rleOddTail := .ignore }, _, ⟨by decide, by decide, by decide, by decide, by decide, rfl⟩, rfl, by decide⟩⟩

theorem witness_Rle16IsReportedUnsupported :
    ∃ s : State, 17 + (3 : U32).toNat + 4 ≤ s.buf.length ∧ le32At s.buf (17 + (3 : U32).toNat) = s.cfg.endMarker ∧ 0 < (3 : U32).toNat ∧
      (0 : U16).toNat ≤ (0 : U16).toNat ∧ (0 : U16).toNat < (1 : U16).toNat := ⟨passOn rle16Rec, by decide, by decide, by decide, by decide, by decide⟩

theorem witness_DecodedRegionHasAllItsPixels :
    ∃ r, decodeRecord Config.test false ⟨.raw8, 65535, 65535, 65535, 65535, 1, [0xFF], 22, 0⟩ = .region r := ⟨_, rfl⟩

/-- L1-7. -/
theorem witness_RleRegionEqualsRawRegionOfItsRuns :
    ∃ (rec : Record) (n' : U32), rec.fmt = .rle8 ∧ rec.x1.toNat ≤ rec.x2.toNat ∧ rec.y1.toNat ≤ rec.y2.toNat ∧
      rec.payload.length = rec.dataLen.toNat ∧ rec.dataLen.toNat % 2 = 0 ∧
      (runs rec.payload).length = (rec.x2.toNat - rec.x1.toNat + 1) * (rec.y2.toNat - rec.y1.toNat + 1) ∧
      n'.toNat = (runs rec.payload).length :=
  ⟨⟨.rle8, 0, 0, 1, 1, 4, [0x03, 0xE0, 0x01, 0x1C], 25, 0⟩, 4, rfl, by decide, by decide, by decide, by decide, by decide, by decide⟩

/-- A command other than RAW16, a fetch that stops, and one that finds a command. -/
theorem witness_Swap16AffectsOnlyRaw16 :
    (∃ s t, exec (.frameRaw8 5 5 5 6 2) s = .next t ∧ ∀ x1 y1 x2 y2 n, Instr.frameRaw8 5 5 5 6 2 ≠ .frameRaw16 x1 y1 x2 y2 n) ∧
    (∃ s t, fetch s = .stopped t) ∧ (∃ s i t, fetch s = .command i t) :=
  ⟨⟨passOn raw8Rec, _, rfl, by simp⟩, ⟨passOn [], _, rfl⟩, ⟨passOn raw16Rec, _, _, rfl⟩⟩

/-- A chunk that fills the capacity exactly, one byte more than fits, and any chunk with OVF set (R133). -/
theorem witness_ChunkIsAppendedOrRefusedWhole :
    let s (n : Nat) (o : Bool) : State :=
      { holding (List.replicate 16 0x11) [.chunk 0x11 (List.replicate n 0x11)] with cfg := { Config.test with bufCap := some 32 }, ovf := o }
    (∀ n o, BlockTurn (s n o) ∧ (s n o).phase = .idle ∧ (s n o).inputs = .chunk 0x11 (List.replicate n 0x11) :: []) ∧
    (s 15 false).buf.length + ((List.replicate 15 (0x11 : Byte)).length + 1) = 32 ∧
    32 + 1 = (s 16 false).buf.length + ((List.replicate 16 (0x11 : Byte)).length + 1) ∧ (s 0 true).ovf = true :=
  ⟨fun _ _ => ⟨.inl rfl, rfl, rfl⟩, rfl, rfl, rfl⟩

theorem witness_OvfIsStickyUntilFullReset :
    (∃ s t, step s = .next t ∧ s.ovf = true ∧ t.ovf = false) ∧ (∃ s t, step s = .next t ∧ s.ovf = false ∧ t.ovf = true) :=
  ⟨⟨{ holding [] [.rst .full] with ovf := true }, _, rfl, rfl, rfl⟩,
   ⟨{ holding [] [.chunk 0x11 [0x11]] with cfg := { Config.test with bufCap := some 1 } }, _, rfl, rfl, rfl⟩⟩

theorem witness_CtrlWritesOnlySwap16 :
    ∃ s : State, BlockTurn s ∧ s.phase = .idle ∧ s.inputs = .ctrl true :: [] := ⟨holding [] [.ctrl true], .inl rfl, rfl, rfl⟩

theorem witness_StreamChangesNoConfiguration :
    (∃ s t, step s = .next t ∧ t.swap16 ≠ s.swap16 ∧ s.inputs = [.ctrl true]) ∧
    (∃ s t, step s = .next t ∧ t.swap16 ≠ s.swap16 ∧ s.inputs = [.rst .full]) :=
  ⟨⟨holding [] [.ctrl true], _, rfl, by decide, rfl⟩, ⟨{ holding [] [.rst .full] with swap16 := true }, _, rfl, by decide, rfl⟩⟩

/-- FullResetClearsTheBlock, LivenessResetChangesNothing, ReconnectKeepsTheBlock: a reset of each kind offered between passes
under any parameters, so under both values of each parameter that it reads. -/
theorem witness_Resets :
    let s (c : Config) (k : ResetKind) : State := { holding [0x4D] [.rst k] with cfg := c, pos := 14, ovf := true }
    (∀ c k, BlockTurn (s c k) ∧ (s c k).phase = .idle ∧ (s c k).inputs = .rst k :: [] ∧ (s c k).cfg = c) ∧
    (∀ v, ∃ c : Config, c.consumerOnFull = v) ∧ (∀ b v, ∃ c : Config, c.reconnectClearsBuffer = b ∧ c.posOnClear = v) :=
  ⟨fun _ _ => ⟨.inl rfl, rfl, rfl, rfl⟩, fun v => ⟨{ Config.test with consumerOnFull := v }, rfl⟩,
   fun b v => ⟨{ Config.test with reconnectClearsBuffer := b, posOnClear := v }, rfl, rfl⟩⟩

theorem witness_HrIsNeverRead : ∃ s t, step s = .next t ∧ t.hr ≠ s.hr := ⟨passOn raw16Rec, _, rfl, by decide⟩

theorem witness_ConsumerNeverDisturbsTheBlock :
    (∃ s t, BlockTurn s ∧ step s = .next t ∧ t.queue ≠ s.queue) ∧ (∃ s t, ¬ BlockTurn s ∧ step s = .next t ∧ t.canvas ≠ s.canvas) :=
  ⟨⟨passOn raw16Rec, _, .inl rfl, rfl, by decide⟩, ⟨midStream, _, fun h => by cases h <;> contradiction, rfl, by decide⟩⟩

/-- The queue one short of its capacity, and at it. -/
theorem witness_PushDropsTheOldestWhenFull :
    let r : Region := ⟨.raw8, 0, 0, 1, 1, [red], 0⟩
    (List.replicate 29 r).length < 30 ∧ (r :: List.replicate 29 r).length = 30 := by decide

theorem witness_QueueKeepsTheNewest : 0 < Config.test.qcap := by decide

theorem witness_TickAppliesInfosThenRegions : midStream.turns.head? = some .tick := rfl

/-- Another width only, another height only, the same dimensions. -/
theorem witness_InfoAllocatesOrSetsBpp :
    ∃ (i : Info) (f g h : Surface), applyInfoMap Config.test.infoMap i = (240, 240, 16) ∧
      (240 ≠ f.width ∧ 240 = f.height) ∧ (240 = g.width ∧ 240 ≠ g.height) ∧ (240 = h.width ∧ 240 = h.height) :=
  ⟨⟨0, 0, 239, 239, 16, 1⟩, allocate (320, 240, 16) 1, allocate (240, 320, 16) 1, allocate (240, 240, 8) 1,
   by decide, by decide, by decide, by decide⟩

/-- L2-D-1: a rectangle with one corner inside the canvas. -/
theorem witness_BlitWritesExactlyTheInBoundsPixels :
    ∃ (f : Surface) (r : Region), (Canvas.sized f).wf ∧ r.whole ∧
      (∃ x y, x < f.width ∧ y < f.height ∧ r.x.toNat ≤ x ∧ x < r.x.toNat + r.w ∧ r.y.toNat ≤ y ∧ y < r.y.toNat + r.h) ∧
      (∃ x y, x < f.width ∧ y < f.height ∧ ¬ r.x.toNat ≤ x) :=
  ⟨allocate (2, 2, 8) 1, ⟨.raw8, 1, 1, 2, 2, [red, green, blue, red], 1⟩, ⟨Memory.wf_nil, by simp [allocate]⟩,
   ⟨by decide, by decide, by decide, by decide, by decide⟩, ⟨1, 1, by decide⟩, ⟨0, 0, by decide⟩⟩

/-- A region with the allocation's number, and with the one before it, under both policies. -/
theorem witness_StaleRegionFollowsThePolicy :
    let f := allocate (2, 2, 8) 1
    f.allocSeq ≤ (⟨.raw8, 0, 0, 1, 1, [red], 1⟩ : Region).seq ∧ (⟨.raw8, 0, 0, 1, 1, [red], 0⟩ : Region).seq < f.allocSeq ∧
    Config.test.stalePolicy = .drop ∧ ({ Config.test with stalePolicy := .clip } : Config).stalePolicy = .clip := by decide

/-- L1-9 under both policies. -/
theorem witness_ResizeThenStaleRegion :
    ∃ (f : Surface) (i : Info) (r : Region), (∀ p, applyInfoMap ({ Config.test with stalePolicy := p } : Config).infoMap i = (240, 240, 16)) ∧
      240 ≠ f.width ∧ r.seq < i.seq ∧ r.whole :=
  ⟨allocate (320, 240, 16) 1, ⟨0, 0, 239, 239, 16, 2⟩, ⟨.raw8, 230, 0, 20, 1, List.replicate 20 red, 1⟩, fun _ => rfl, by decide, by decide,
   ⟨by decide, by decide, by decide, by decide, by decide⟩⟩

theorem witness_OnlyTheConsumerWritesTheCanvas :
    ∃ s t, step s = .next t ∧ BlockTurn s ∧ t.canvas ≠ s.canvas :=
  ⟨{ holding [] [.rst .full] with cfg := { Config.test with consumerOnFull := .restart }, canvas := sized 2 2 1 }, _, rfl, .inl rfl, by decide⟩

/-- Both policies, with no canvas and with one. -/
theorem witness_LossOfConnectionRetainsOrBlanks :
    let s (d : DisconnectCanvas) (v : Canvas) : State := { State.reset with cfg := { Config.test with disconnectCanvas := d }, canvas := v, turns := [.connectionLost] }
    ∀ d v, (s d v).turns.head? = some .connectionLost ∧ (s d v).cfg.disconnectCanvas = d ∧ (s d v).canvas = v := fun _ _ => ⟨rfl, rfl, rfl⟩

/-- The state of L1-9 before T1 has the invariant. -/
theorem witness_EveryStepKeepsTheInvariant : Inv midStream ∧ ∃ t, step midStream = .next t ∧ t.canvas ≠ midStream.canvas := by
  have whole : (⟨.raw8, 230, 0, 2, 1, [red, red], 1⟩ : Region).whole := ⟨by decide, by decide, by decide, by decide, by decide⟩
  refine ⟨?_, _, rfl, by decide⟩
  constructor
  · intro cap h; cases h
  · rfl
  · intro _; rfl
  · intro _; rfl
  · intro h; cases h
  · intro h; cases h
  · intro _; exact .inl (by decide)
  · decide
  · intro r hr; cases hr with
    | head => exact whole
    | tail _ h => cases h
  · intro r hr
    simp [midStream] at hr
    exact hr ▸ whole
  · decide
  · exact ⟨rfl, trivial⟩
  · exact ⟨Memory.wf_nil, by simp [allocate]⟩
  · intro c h; cases h

end Sys2Proof.Tests
end

namespace Sys2Proof

/-- Settles O1, one header per command: each is whole, begins with the start marker of the test instantiation, is dispatched
to its command with the operands of the byte map, and leaves the bytes behind offset 17 (30_encoding.md R41, R44, R45). -/
theorem specHeaderWordsDecode : Obligations.SpecHeaderWordsDecode := by
  unfold Obligations.SpecHeaderWordsDecode
  simp only [decode_eq_instr]
  refine ⟨?info, ?frameRaw16, ?frameRle16, ?frameRaw8, ?frameRle8, ?unknown⟩
  all_goals
    refine ⟨?whole, ?marker, ?command, ?rest⟩
    case whole => decide
    case marker => decide
    case command => decide
    case rest => rfl

end Sys2Proof

namespace Sys2Proof

/-- `LE32` reads back the four bytes it is stored as. -/
theorem le32At_bytes32 (v : U32) : le32At (bytes32 v) 0 = v := le32_extract v

theorem bytes32_injective : Function.Injective bytes32 :=
  Function.LeftInverse.injective (g := (le32At · 0)) le32At_bytes32

/-- Where four bytes stand, they are the bytes of the word that `LE32` reads there. -/
theorem take_four_drop_eq_bytes32 {b : List Byte} {p : Nat} (h : p + 4 ≤ b.length) :
    (b.drop p).take 4 = bytes32 (le32At b p) := by
  have e : b.drop p = byteAt b p :: byteAt b (p + 1) :: byteAt b (p + 2) :: byteAt b (p + 3) :: b.drop (p + 4) := by
    rw [byteAt_eq_getElem (by omega), byteAt_eq_getElem (by omega), byteAt_eq_getElem (by omega), byteAt_eq_getElem (by omega)]
    simp only [List.getElem_cons_drop]
  rw [e, le32At, bytes32_le32]
  rfl

/-- Settles O6: a whole word at `p` is its own four bytes, and four bytes determine their word, so the two forms of
20_memory.md R26 agree; an offset too near the end fails both, the second because fewer than four bytes are left. -/
theorem markerPresenceIsItsFourBytes : Obligations.MarkerPresenceIsItsFourBytes := by
  unfold Obligations.MarkerPresenceIsItsFourBytes
  intro m b p
  constructor
  · rintro ⟨hl, rfl⟩
    exact take_four_drop_eq_bytes32 hl
  · intro h
    have hl : p + 4 ≤ b.length := by
      have hlen := congrArg List.length h
      simp only [List.length_take, List.length_drop, List.length_cons, List.length_nil] at hlen
      omega
    exact ⟨hl, bytes32_injective ((take_four_drop_eq_bytes32 hl).symm.trans h)⟩

end Sys2Proof

namespace Sys2Proof

theorem toNat_le16At (b : List Byte) (i : Nat) :
    (le16At b i).toNat = (byteAt b i).toNat + 256 * (byteAt b (i + 1)).toNat :=
  toNat_le16 ..

theorem toNat_le32At (b : List Byte) (i : Nat) :
    (le32At b i).toNat = (byteAt b i).toNat + 256 * (byteAt b (i + 1)).toNat + 65536 * (byteAt b (i + 2)).toNat +
      16777216 * (byteAt b (i + 3)).toNat :=
  toNat_le32 ..

/-- Settles O4: each field of the byte map (30_encoding.md R41) is one byte, or the `LE16` or `LE32` read at the field's
offset, and the numbers of those two reads are the sums of R42. -/
theorem headerFieldsAreLittleEndian : Obligations.HeaderFieldsAreLittleEndian := by
  unfold Obligations.HeaderFieldsAreLittleEndian
  intro b
  refine ⟨?marker, ?cmd, ?x1, ?y1, ?x2, ?y2, ?dataLen⟩
  case marker => exact toNat_le32At b 0
  case cmd => rfl
  case x1 => exact toNat_le16At b 5
  case y1 => exact toNat_le16At b 7
  case x2 => exact toNat_le16At b 9
  case y2 => exact toNat_le16At b 11
  case dataLen => exact toNat_le32At b 13

end Sys2Proof

namespace Sys2Proof

/-! ### The dispatch, one equation per branch (40_framer.md R62) -/

section
variable {c : Config} {h : Header}

theorem dispatch_cmdInfo (hc : h.cmd = cmdInfo) : dispatch c h = .info h.x1 h.y1 h.x2 h.y2 h.dataLen :=
  if_pos hc

theorem dispatch_cmdRaw16 (hc : h.cmd = cmdRaw16) : dispatch c h = .frameRaw16 h.x1 h.y1 h.x2 h.y2 h.dataLen := by
  simp [dispatch, hc]

theorem dispatch_rle16 (hc : h.cmd = c.codes.rle16) : dispatch c h = .frameRle16 h.x1 h.y1 h.x2 h.y2 h.dataLen := by
  obtain ⟨hInfo, hRaw16, -⟩ := c.codes.pairwise_ne
  rw [dispatch, hc, if_neg hInfo, if_neg hRaw16, if_pos rfl]

theorem dispatch_raw8 (hc : h.cmd = c.codes.raw8) : dispatch c h = .frameRaw8 h.x1 h.y1 h.x2 h.y2 h.dataLen := by
  obtain ⟨-, -, hInfo, hRaw16, -, -, hRle16, -⟩ := c.codes.pairwise_ne
  rw [dispatch, hc, if_neg hInfo, if_neg hRaw16, if_neg hRle16.symm, if_pos rfl]

theorem dispatch_rle8 (hc : h.cmd = c.codes.rle8) : dispatch c h = .frameRle8 h.x1 h.y1 h.x2 h.y2 h.dataLen := by
  obtain ⟨-, -, -, -, hInfo, hRaw16, -, hRle16, hRaw8⟩ := c.codes.pairwise_ne
  rw [dispatch, hc, if_neg hInfo, if_neg hRaw16, if_neg hRle16.symm, if_neg hRaw8.symm, if_pos rfl]

theorem dispatch_unknown (hc : h.cmd ∉ c.known) : dispatch c h = .unknown h.cmd := by
  simp only [Config.known, List.mem_cons, List.not_mem_nil, or_false, not_or] at hc
  obtain ⟨hInfo, hRaw16, hRle16, hRaw8, hRle8⟩ := hc
  rw [dispatch, if_neg hInfo, if_neg hRaw16, if_neg hRle16, if_neg hRaw8, if_neg hRle8]

end

/-- Settles O5: the five codes are pairwise distinct (00_scope.md R3), so a `cmd` equal to one of them passes the tests against
those before it, and a `cmd` equal to none passes all five. -/
theorem dispatchSelectsByCmd : Obligations.DispatchSelectsByCmd := by
  unfold Obligations.DispatchSelectsByCmd
  intro c h
  refine ⟨dispatch_cmdInfo, dispatch_cmdRaw16, dispatch_rle16, dispatch_raw8, dispatch_rle8, ?_⟩
  intro hInfo hRaw16 hRle16 hRaw8 hRle8
  have hUnknown : h.cmd ∉ c.known := by
    simp only [Config.known, List.mem_cons, List.not_mem_nil, or_false, not_or]
    exact ⟨hInfo, hRaw16, hRle16, hRaw8, hRle8⟩
  exact dispatch_unknown hUnknown

/-! ### What the encoder writes, the decoder reads (30_encoding.md R41, R54) -/

/-- The byte map reads back the fields that a header was written from. -/
theorem parseHeader_encodeHeader (h : Header) : parseHeader (encodeHeader h) = h := by
  obtain ⟨marker, cmd, x1, y1, x2, y2, n⟩ := h
  have e : parseHeader (encodeHeader ⟨marker, cmd, x1, y1, x2, y2, n⟩) =
      ⟨le32At (bytes32 marker) 0, cmd, le16At (bytes16 x1) 0, le16At (bytes16 y1) 0, le16At (bytes16 x2) 0,
        le16At (bytes16 y2) 0, le32At (bytes32 n) 0⟩ := rfl
  have e16 (v : U16) : le16At (bytes16 v) 0 = v := le16_extract v
  simp only [e, le32At_bytes32, e16]

/-- The header written for an instruction is dispatched to that instruction. -/
theorem dispatch_header {c : Config} {i : Instr} (h : i.wf c = true) : dispatch c (i.header c) = i := by
  cases i with
  | info x1 y1 x2 y2 n => exact dispatch_cmdInfo rfl
  | frameRaw16 x1 y1 x2 y2 n => exact dispatch_cmdRaw16 rfl
  | frameRle16 x1 y1 x2 y2 n => exact dispatch_rle16 rfl
  | frameRaw8 x1 y1 x2 y2 n => exact dispatch_raw8 rfl
  | frameRle8 x1 y1 x2 y2 n => exact dispatch_rle8 rfl
  | unknown k => exact dispatch_unknown (by simpa [Instr.wf, Instr.header] using h)

theorem le32At_encode (c : Config) (i : Instr) : le32At (encode c i) 0 = c.marker := by
  cases i <;> exact le32_extract c.marker

/-- A written header decodes to its instruction, whatever follows it. -/
theorem decode_encode_append {c : Config} {i : Instr} (rest : List Byte) (h : i.wf c = true) :
    decode c (encode c i ++ rest) = .instr i rest := by
  have hd : decode c (encode c i) = .instr i [] := by
    rw [decode_eq_instr]
    refine ⟨(length_encode c i).ge, le32At_encode c i, ?_, rfl⟩
    rw [encode, parseHeader_encodeHeader, dispatch_header h]
  exact decode_append rest hd

theorem FrameRecord.wf_instr (c : Config) (r : FrameRecord) : r.instr.wf c = true := by
  obtain ⟨fmt, x1, y1, x2, y2, n, payload, endMarker⟩ := r
  cases fmt <;> rfl

theorem FrameRecord.valid_iff {c : Config} {r : FrameRecord} :
    r.valid c = true ↔ r.payload.length = r.dataLen.toNat ∧ 0 < r.dataLen.toNat ∧ r.endMarker = c.endMarker := by
  simp [FrameRecord.valid, FrameRecord.wf, and_assoc]

/-- `total` (40_framer.md R63) is the length of a written record. -/
theorem length_encodeRecord {c : Config} {r : FrameRecord} (h : r.payload.length = r.dataLen.toNat) :
    (encodeRecord c r).length = 17 + r.dataLen.toNat + 4 := by
  simp [encodeRecord, headerSize, h, Nat.add_assoc]

theorem encodeRecord_append (c : Config) (r : FrameRecord) (rest : List Byte) :
    encodeRecord c r ++ rest = encode c r.instr ++ (r.payload ++ (bytes32 r.endMarker ++ rest)) := by
  simp [encodeRecord]

/-- A written record decodes to the FRAME command of its header. -/
theorem decode_encodeRecord_append (c : Config) (r : FrameRecord) (rest : List Byte) :
    decode c (encodeRecord c r ++ rest) = .instr r.instr (r.payload ++ (bytes32 r.endMarker ++ rest)) := by
  rw [encodeRecord_append, decode_encode_append _ (r.wf_instr c)]

end Sys2Proof

namespace Sys2Proof.Machine

@[simp] theorem discardBefore_cfg (p : Nat) (s : State) : (s.discardBefore p).cfg = s.cfg := by rw [discardBefore_eq]
@[simp] theorem discardBefore_buf (p : Nat) (s : State) : (s.discardBefore p).buf = s.buf.drop p := by rw [discardBefore_eq]

/-! ### An iteration of the pass, one equation per branch (40_framer.md R58 steps L to D) -/

section
variable {s : State}

theorem passStep_short (hl : s.phase = .atL ∧ s.buf.length < headerSize) : passStep s = .next s.stopPass := by
  rw [passStep, fetch, if_pos hl]

theorem passStep_noMarker (hl : ¬(s.phase = .atL ∧ s.buf.length < headerSize)) (hf : findMarker s.cfg.marker s.buf = none) :
    passStep s = .next s.discardAll := by
  rw [passStep, fetch, if_neg hl, scanFrom, hf]

/-- Steps B to D at the lowest marker. -/
theorem passStep_marker {p : Nat} (hl : ¬(s.phase = .atL ∧ s.buf.length < headerSize))
    (hf : findMarker s.cfg.marker s.buf = some p) :
    passStep s =
      if s.buf.length < p + headerSize then .next (s.discardBefore p).stopPass
      else exec (dispatch s.cfg (parseHeader (s.buf.drop p))) ((s.discardBefore p).loadHR (parseHeader (s.buf.drop p))) := by
  obtain ⟨hp, -, -⟩ := findMarker_some hf
  have hlen : s.buf.length - p < headerSize ↔ s.buf.length < p + headerSize := by omega
  rw [passStep, fetch, if_neg hl, scanFrom, hf]
  simp only [parseAndDispatch, discardBefore_cfg, discardBefore_buf, List.length_drop, hlen]
  split_ifs <;> rfl

/-- `discardBefore_eq` with the report as a choice of logs, not of events. -/
theorem discardBefore_eq_ite (p : Nat) (s : State) :
    s.discardBefore p = { s with
      buf := s.buf.drop p
      pos := s.pos + p
      out := if 0 < p then s.out ++ [.diag .preSync p] else s.out } := by
  rw [discardBefore_eq]
  split_ifs <;> simp

/-- An unknown command, the only one that goes on at A, removes one byte of a whole header (40_framer.md R59, R72). -/
theorem passStep_atA {t : State} (h : passStep s = .next t) (ht : t.phase = .atA) : 16 ≤ t.buf.length := by
  rcases passStep_cases h with ⟨-, -, rfl⟩ | ⟨-, -, rfl⟩ | ⟨p, -, -, ⟨-, rfl⟩ | ⟨hl, he⟩⟩
  · simp at ht
  · simp at ht
  · simp at ht
  · have hlen : headerSize ≤ s.buf.length - p := by omega
    rcases exec_effect (by simpa using hlen) he with ⟨rfl, -⟩ | ⟨k, e, -, eff, ⟨hL, -⟩ | ⟨-, rfl, -⟩⟩
    · simp at ht
    · simp [hL] at ht
    · rw [eff.buf, State.loadHR_buf, discardBefore_buf, List.length_drop, List.length_drop]
      exact Nat.le_sub_of_add_le hlen

end

/-- Settles O8: at the loop head's bound the step is the scan, which answers no marker or the lowest one; what is behind that
one is a whole header or not. Only an unknown command goes on at A, one byte after a whole header. -/
theorem scanTakesTheLowestMarker : Obligations.ScanTakesTheLowestMarker := by
  unfold Obligations.ScanTakesTheLowestMarker
  refine ⟨?scan, ?enoughAtA⟩
  case scan =>
    intro s hb hp hL hlen
    have hl : ¬(s.turnTaken.phase = .atL ∧ s.turnTaken.buf.length < headerSize) :=
      fun ⟨h, hlt⟩ => absurd (hL h) (Nat.not_le.mpr hlt)
    rw [step_pass hb hp]
    refine ⟨fun hno => ?noMarker, fun p hp4 hm hmin => ?marker⟩
    case noMarker =>
      exact ⟨by omega, _, passStep_noMarker hl (findMarker_eq_none hno)⟩
    case marker =>
      rw [passStep_marker hl (findMarker_eq_some hp4 hm hmin), discardBefore_eq_ite]
      refine ⟨fun hwhole => ⟨?_, if_neg (Nat.not_lt.mpr hwhole)⟩, fun hshort => ⟨_, if_pos hshort⟩⟩
      exact (le32At_drop s.buf p 0).trans hm
  case enoughAtA =>
    intro s t hb hp hs
    rw [step_pass hb hp] at hs
    exact passStep_atA hs

end Sys2Proof.Machine

namespace Sys2Proof.Machine

/-! ### One valid record in `BUF` (40_framer.md R76, R77) -/

/-- What the decoder is given for a FRAME record that arrives after `seq` Infos: the record's own fields and its `total`. -/
def recordOf (r : FrameRecord) (seq : Nat) : Record :=
  ⟨r.fmt, r.x1, r.y1, r.x2, r.y2, r.dataLen, r.payload, 21 + r.dataLen.toNat, seq⟩

section
variable {s : State} {r : FrameRecord} {rest : List Byte}

/-- Step F copies the record that the encoder wrote. -/
theorem frameRecord_encodeRecord (hpay : r.payload.length = r.dataLen.toNat) (hbuf : s.buf = encodeRecord s.cfg r ++ rest) :
    s.frameRecord r.fmt r.x1 r.y1 r.x2 r.y2 r.dataLen = recordOf r s.infoSeq := by
  have hcopy : (s.buf.drop headerSize).take r.dataLen.toNat = r.payload := by
    rw [hbuf, encodeRecord_append, List.drop_left' (length_encode ..), List.take_left' hpay]
  have htotal : recordLength r.dataLen = 21 + r.dataLen.toNat := by
    simp only [recordLength, headerSize, endSize]
    omega
  rw [State.frameRecord, hcopy, htotal]
  rfl

/-- The end marker of the record that the encoder wrote. -/
theorem frameEnd_encodeRecord (hpay : r.payload.length = r.dataLen.toNat) (hbuf : s.buf = encodeRecord s.cfg r ++ rest) :
    s.frameEnd r.dataLen = r.endMarker := by
  have hlen : (encode s.cfg r.instr ++ r.payload).length = headerSize + r.dataLen.toNat := by simp [hpay]
  rw [State.frameEnd, hbuf, encodeRecord, List.append_assoc, le32At_append_right hlen.le, hlen, Nat.sub_self,
    le32At_append_left (by simp), le32At_bytes32]

/-- A valid record at `BUF[0]` is consumed with the one event of its decode. -/
theorem exec_validRecord (hvalid : r.valid s.cfg = true) (hbuf : s.buf = encodeRecord s.cfg r ++ rest) :
    exec r.instr s = .next { s with
      buf := rest
      pos := s.pos + (21 + r.dataLen.toNat)
      phase := .atL
      out := s.out ++ [decodeEvent s.cfg s.swap16 (recordOf r s.infoSeq)]
      queue := routeRegion s.cfg.qcap s.queue (decodeEvent s.cfg s.swap16 (recordOf r s.infoSeq))
      pendingInfo := routeInfo s.pendingInfo (decodeEvent s.cfg s.swap16 (recordOf r s.infoSeq)) } := by
  obtain ⟨hpay, hpos, hend⟩ := FrameRecord.valid_iff.mp hvalid
  have hlen := length_encodeRecord (c := s.cfg) hpay
  have hev : frameEvent s.cfg s.swap16 (s.frameRecord r.fmt r.x1 r.y1 r.x2 r.y2 r.dataLen) (s.frameEnd r.dataLen) =
      decodeEvent s.cfg s.swap16 (recordOf r s.infoSeq) := by
    rw [frameEvent_valid ((frameEnd_encodeRecord hpay hbuf).trans hend) hpos, frameRecord_encodeRecord hpay hbuf]
  have hdrop : s.buf.drop (17 + r.dataLen.toNat + 4) = rest := by rw [hbuf, List.drop_left' hlen]
  have htotal : 17 + r.dataLen.toNat + 4 = 21 + r.dataLen.toNat := by omega
  rw [FrameRecord.instr, exec_whole r.fmt r.x1 r.y1 r.x2 r.y2 (by simp [hbuf, hlen]) hev, hdrop, htotal]

/-- The step at the loop head with a valid record behind bytes in which no marker begins: it removes both, reports the bytes
before the record when there are any, and appends the record's one event. -/
theorem step_validRecord {g : List Byte} (hb : BlockTurn s) (hL : s.phase = .atL) (hvalid : r.valid s.cfg = true)
    (hbuf : s.buf = g ++ (encodeRecord s.cfg r ++ rest)) (hg : ∀ q < g.length, le32At s.buf q ≠ s.cfg.marker) :
    ∃ t, step s = .next t ∧ t.phase = .atL ∧ t.turns = s.turns.tail ∧ t.buf = rest ∧
      t.pos = s.pos + (g.length + (21 + r.dataLen.toNat)) ∧
      t.out = (if 0 < g.length then s.out ++ [.diag .preSync g.length] else s.out) ++
        [decodeEvent s.cfg s.swap16 (recordOf r s.infoSeq)] := by
  have hdrop : s.buf.drop g.length = encodeRecord s.cfg r ++ rest := by rw [hbuf, List.drop_left]
  obtain ⟨hwhole, hm, hcmd, -⟩ := decode_eq_instr.mp (decode_encodeRecord_append s.cfg r rest)
  have hwhole : g.length + 17 ≤ s.buf.length := by
    rw [hbuf, List.length_append]
    exact Nat.add_le_add_left hwhole _
  have hm : le32At s.buf g.length = s.cfg.marker := by
    rw [← hdrop, le32At_drop] at hm
    exact hm
  obtain ⟨scan, -⟩ := scanTakesTheLowestMarker
  obtain ⟨-, atMarker⟩ := scan s hb (by simp [hL]) (fun _ => by omega) (by omega)
  obtain ⟨whole, -⟩ := atMarker g.length (by omega) hm hg
  obtain ⟨-, hstep⟩ := whole hwhole
  rw [hdrop, ← hcmd] at hstep
  exact ⟨_, hstep.trans (exec_validRecord (rest := rest) hvalid rfl), rfl, rfl, rfl, Nat.add_assoc .., rfl⟩

end

/-- Settles O17: the record's step is that behind no garbage at all, and the bytes left behind the record are too few for
the loop head. -/
theorem oneValidRecordIsDecodedOnce : Obligations.OneValidRecordIsDecodedOnce := by
  unfold Obligations.OneValidRecordIsDecodedOnce
  intro s r rest hturns hL hvalid hbuf hrest
  obtain ⟨t, hstep, htL, htturns, htbuf, htpos, htout⟩ :=
    step_validRecord (g := []) (.inl hturns) hL hvalid hbuf (by simp)
  have hstop : step t = .next t.turnTaken.stopPass := by
    rw [step_pass (.inl (by simp [htturns, hturns])) (by simp [htL])]
    exact passStep_short ⟨htL, by rw [State.turnTaken_buf, htbuf]; exact hrest⟩
  refine ⟨t, t.turnTaken.stopPass, hstep, hstop, rfl, ?_, htbuf, ?_, rfl, htbuf, rfl⟩
  · rw [htout, decodeAndEmit_eq]
    rfl
  · rw [htpos, List.length_nil, Nat.zero_add]

/-- Settles O18: no marker begins below offset `k`, so the record's own is the lowest, and one step removes the `k` bytes
before it and the record. -/
theorem garbagePrefixIsDiscarded : Obligations.GarbagePrefixIsDiscarded := by
  unfold Obligations.GarbagePrefixIsDiscarded
  intro s g r hb hL hvalid hbuf hg
  obtain ⟨t, hstep, -, -, htbuf, htpos, htout⟩ :=
    step_validRecord (rest := []) hb hL hvalid (by rw [hbuf, List.append_nil]) hg
  refine ⟨t, _, hstep, rfl, ?_, htbuf, htpos⟩
  rw [htout, decodeAndEmit_eq]
  rfl

end Sys2Proof.Machine

namespace Sys2Proof.Machine

/-- The event of a validated record without a rectangle, whatever its format: no arm is reached (41_decoder.md R81, R82). -/
theorem frameEvent_badRect {s : State} {fmt : Fmt} {x1 y1 x2 y2 : U16} {n : U32}
    (he : le32At s.buf (17 + n.toNat) = s.cfg.endMarker) (hn : 0 < n.toNat)
    (hb : x2.toNat < x1.toNat ∨ y2.toNat < y1.toNat) :
    frameEvent s.cfg s.swap16 (s.frameRecord fmt x1 y1 x2 y2 n) (s.frameEnd n) = .diag .decBadRect (17 + n.toNat + 4) := by
  have hbad : badRect x1 y1 x2 y2 = true := by simpa [badRect] using hb
  have hdrop : decodeRecord s.cfg s.swap16 (s.frameRecord fmt x1 y1 x2 y2 n) = .drop .decBadRect := if_pos hbad
  rw [frameEvent_valid he hn, decodeEvent, hdrop]
  rfl

/-- Settles O30: the RLE16 arm answers DEC_UNSUPPORTED without reading the payload, and a record without a rectangle reaches
no arm; either Diag is the record's one event. -/
theorem rle16IsReportedUnsupported : Obligations.Rle16IsReportedUnsupported := by
  unfold Obligations.Rle16IsReportedUnsupported
  intro s x1 y1 x2 y2 n hwhole he hn
  refine ⟨fun hx hy => ?rectangle, fun hb => ?noRectangle⟩
  case rectangle =>
    have hev : frameEvent s.cfg s.swap16 (s.frameRecord .rle16 x1 y1 x2 y2 n) (s.frameEnd n) =
        .diag .decUnsupported (17 + n.toNat + 4) := frameEvent_rect he hn hx hy
    exact exec_whole .rle16 x1 y1 x2 y2 hwhole hev
  case noRectangle => exact exec_whole .rle16 x1 y1 x2 y2 hwhole (frameEvent_badRect he hn hb)

end Sys2Proof.Machine

namespace Sys2Proof.Machine

/-- The run of pair `k` of a payload: `P[2k]` copies of `P[2k + 1]` (41_decoder.md R89). -/
def pairRun (p : List Byte) (k : Nat) : List Byte := List.replicate (byteAt p (2 * k)).toNat (byteAt p (2 * k + 1))

@[simp] theorem length_pairRun (p : List Byte) (k : Nat) : (pairRun p k).length = (byteAt p (2 * k)).toNat :=
  List.length_replicate

/-- Behind a pair, the pairs of the rest follow with their numbers one higher. -/
theorem pairRun_succ (count value : Byte) (rest : List Byte) (k : Nat) :
    pairRun (count :: value :: rest) (k + 1) = pairRun rest k := rfl

/-- `Runs(P)` by the numbers of its pairs. -/
theorem runs_eq_flatMap_pairRun (p : List Byte) : runs p = (List.range (p.length / 2)).flatMap (pairRun p) := by
  induction p using runs.induct with
  | case1 count value rest ih =>
    have hpairs : (count :: value :: rest).length / 2 = rest.length / 2 + 1 := by
      simp only [List.length_cons]
      omega
    have hrest : pairRun (count :: value :: rest) ∘ Nat.succ = pairRun rest := funext (pairRun_succ count value rest)
    rw [runs_pair, ih, hpairs, List.range_succ_eq_map, List.flatMap_cons, List.flatMap_map]
    exact congrArg (_ ++ List.flatMap · _) hrest.symm
  | case2 b => simp
  | case3 => rfl

theorem length_runs (p : List Byte) :
    (runs p).length = ((List.range (p.length / 2)).map (fun k => (byteAt p (2 * k)).toNat)).sum := by
  rw [runs_eq_flatMap_pairRun, List.length_flatMap]
  simp only [length_pairRun]

/-- A count is one byte, so a pair gives at most 255 values. -/
theorem length_runs_le (p : List Byte) : (runs p).length ≤ 255 * (p.length / 2) := by
  have hcount : ∀ x ∈ (List.range (p.length / 2)).map (fun k => (byteAt p (2 * k)).toNat), x ≤ 255 := by
    intro x hx
    obtain ⟨k, -, rfl⟩ := List.mem_map.mp hx
    exact Nat.le_of_lt_succ (byteAt p (2 * k)).isLt
  have hsum := List.sum_le_card_nsmul _ 255 hcount
  rw [length_runs]
  simpa [Nat.mul_comm] using hsum

/-- Settles O37, by induction on the payload two bytes at a time, as `runs` recurs; the length is the sum over the pairs. -/
theorem runsConcatenateTheirPairs : Obligations.RunsConcatenateTheirPairs := by
  unfold Obligations.RunsConcatenateTheirPairs
  exact fun p => ⟨runs_eq_flatMap_pairRun p, length_runs p, length_runs_le p⟩

end Sys2Proof.Machine

namespace Sys2Proof.Machine

/-- Settles O34: two fixed words, evaluated. -/
theorem expand565SourceExamples : Obligations.Expand565SourceExamples := by
  unfold Obligations.Expand565SourceExamples
  decide

/-- Settles O35: two fixed bytes, evaluated under each rounding: the channel values, 0 and 7 of 7, scale exactly. -/
theorem expand332SourceExamples : Obligations.Expand332SourceExamples := by
  unfold Obligations.Expand332SourceExamples
  intro m
  cases m with
  | floor => decide
  | nearest => decide

end Sys2Proof.Machine

namespace Sys2Proof.Machine

/-! ### Writing a region into the canvas (48_downstream.md R116, 41_decoder.md R86) -/

/-- A list of `w * h` pixels has one for each point of the rectangle, the one at the row-by-row index, and for no other point. -/
theorem lt_and_pixelTarget_eq_iff {r : Region} (hw : 0 < r.w) {i x y : Nat} :
    i < r.w * r.h ∧ pixelTarget r i = (x, y) ↔
      (r.x.toNat ≤ x ∧ x < r.x.toNat + r.w ∧ r.y.toNat ≤ y ∧ y < r.y.toNat + r.h) ∧
        i = (y - r.y.toNat) * r.w + (x - r.x.toNat) := by
  have hrow : i < r.w * r.h ↔ i / r.w < r.h := by rw [Nat.div_lt_iff_lt_mul hw, Nat.mul_comm]
  have hcol : i % r.w < r.w := Nat.mod_lt i hw
  rw [hrow, pixelTarget, Prod.mk.injEq]
  constructor
  · rintro ⟨hh, rfl, rfl⟩
    refine ⟨⟨Nat.le_add_right _ _, Nat.add_lt_add_left hcol _, Nat.le_add_right _ _, Nat.add_lt_add_left hh _⟩, ?_⟩
    rw [Nat.add_sub_cancel_left, Nat.add_sub_cancel_left, Nat.div_add_mod']
  · rintro ⟨hrect, hi⟩
    obtain ⟨hdiv, hmod⟩ : i / r.w = y - r.y.toNat ∧ i % r.w = x - r.x.toNat :=
      (Nat.div_mod_unique hw).mpr ⟨by rw [hi, Nat.mul_comm, Nat.add_comm], by omega⟩
    omega

/-- No two pixels of a region have the same target. -/
theorem pixelTarget_injective (r : Region) : Function.Injective (pixelTarget r) := by
  intro i j h
  simp only [pixelTarget, Prod.mk.injEq, Nat.add_left_cancel_iff] at h
  rw [← Nat.div_add_mod i r.w, ← Nat.div_add_mod j r.w, h.1, h.2]

section
variable {r : Region} {l : List RGB888} {f : Surface} {i x y : Nat}

theorem pixelAt_putPixels_of_ne (hf : (Canvas.sized f).wf) (hx : (x : Int) < f.width) (hy : (y : Int) < f.height)
    (hne : ∀ n < l.length, pixelTarget r (i + n) ≠ (x, y)) : (putPixels r f i l).pixelAt x y = f.pixelAt x y := by
  induction l generalizing f i with
  | nil => rfl
  | cons v vs ih =>
    obtain ⟨hwidth, hheight, -⟩ := put_dims f (pixelTarget r i).1 (pixelTarget r i).2 v
    have hhead : ¬((pixelTarget r i).1 = x ∧ (pixelTarget r i).2 = y) :=
      fun h => hne 0 (Nat.succ_pos _) (Prod.ext h.1 h.2)
    have hrest : ∀ n < vs.length, pixelTarget r (i + 1 + n) ≠ (x, y) := fun n hn => by
      rw [Nat.add_assoc, Nat.add_comm 1]
      exact hne (n + 1) (Nat.succ_lt_succ hn)
    rw [putPixels, ih (put_wf hf _ _ v) (hwidth ▸ hx) (hheight ▸ hy) hrest, pixelAt_put hf _ _ v hx hy, if_neg hhead]

/-- The pixel that a list entry is written to keeps it: the entries behind it have other targets. -/
theorem pixelAt_putPixels_of_eq (hf : (Canvas.sized f).wf) (hx : (x : Int) < f.width)
    (hy : (y : Int) < f.height) {n : Nat} (hn : n < l.length) (heq : pixelTarget r (i + n) = (x, y)) :
    (putPixels r f i l).pixelAt x y = l[n] := by
  induction l generalizing f i n with
  | nil => exact absurd hn (Nat.not_lt_zero n)
  | cons v vs ih =>
    obtain ⟨hwidth, hheight, -⟩ := put_dims f (pixelTarget r i).1 (pixelTarget r i).2 v
    have hwf := put_wf hf (pixelTarget r i).1 (pixelTarget r i).2 v
    rw [putPixels]
    cases n with
    | zero =>
      have hrest : ∀ m < vs.length, pixelTarget r (i + 1 + m) ≠ (x, y) := fun m _ h => by
        have := pixelTarget_injective r (h.trans heq.symm)
        omega
      have hhead : (pixelTarget r i).1 = x ∧ (pixelTarget r i).2 = y := Prod.mk.inj heq
      rw [pixelAt_putPixels_of_ne hwf (hwidth ▸ hx) (hheight ▸ hy) hrest, pixelAt_put hf _ _ v hx hy, if_pos hhead]
      rfl
    | succ n =>
      rw [← Nat.add_assoc, Nat.add_right_comm] at heq
      exact ih hwf (hwidth ▸ hx) (hheight ▸ hy) (Nat.lt_of_succ_lt_succ hn) heq

/-- What a pixel of the canvas is after a whole region is written. -/
theorem pixelAt_blit (hf : (Canvas.sized f).wf) (hr : r.whole) (hx : (x : Int) < f.width) (hy : (y : Int) < f.height) :
    (blit r f).pixelAt x y =
      if r.x.toNat ≤ x ∧ x < r.x.toNat + r.w ∧ r.y.toNat ≤ y ∧ y < r.y.toNat + r.h then
        r.pixels.getD ((y - r.y.toNat) * r.w + (x - r.x.toNat)) ⟨0, 0, 0⟩
      else f.pixelAt x y := by
  obtain ⟨hw, -, -, -, hlen⟩ := hr
  rw [blit, List.take_of_length_le hlen.le]
  split
  · rename_i hrect
    obtain ⟨hlt, htarget⟩ := (lt_and_pixelTarget_eq_iff hw).mpr ⟨hrect, rfl⟩
    rw [← hlen] at hlt
    rw [← Nat.zero_add (_ * _ + _)] at htarget
    rw [pixelAt_putPixels_of_eq hf hx hy hlt htarget, List.getD_eq_getElem _ _ hlt]
  · rename_i hrect
    refine pixelAt_putPixels_of_ne hf hx hy fun n hn htarget => hrect ?_
    rw [Nat.zero_add] at htarget
    exact ((lt_and_pixelTarget_eq_iff hw).mp ⟨hlen ▸ hn, htarget⟩).1

end

/-- An address behind the last pixel of a well-formed canvas is not listed. -/
theorem read_of_area_le {f : Surface} (hf : (Canvas.sized f).wf) {a : Nat} (ha : f.area ≤ a) :
    f.pixels.read a = RGB888.black := by
  by_contra hne
  exact absurd (hf.2 _ (Memory.mem_of_read hne)) (Nat.not_lt.mpr ha)

/-- Settles O54: a region's pixels have targets of their own, one for each point of its rectangle, so a later write undoes no
earlier one; the canvas stays well-formed at its size, so no address behind it is listed before or after. -/
theorem blitWritesExactlyTheInBoundsPixels : Obligations.BlitWritesExactlyTheInBoundsPixels := by
  unfold Obligations.BlitWritesExactlyTheInBoundsPixels
  intro f r hf hr
  refine ⟨fun x y => pixelAt_blit hf hr, fun a ha => ?_, blit_dims r f⟩
  obtain ⟨hwidth, hheight, -⟩ := blit_dims r f
  have harea : (blit r f).area ≤ a := by
    rw [Surface.area, hwidth, hheight]
    exact ha
  rw [read_of_area_le (blit_wf r hf) harea, read_of_area_le hf ha]

/-! ### A push to `Q` (48_downstream.md R108) -/

theorem pushRegion_of_lt {cap : Nat} {q : List Region} (h : q.length < cap) (r : Region) : pushRegion cap q r = q ++ [r] := by
  rw [pushRegion, if_neg (Nat.not_le.mpr h)]

theorem pushRegion_of_le {cap : Nat} {q : List Region} (h : cap ≤ q.length) (r : Region) :
    pushRegion cap q r = q.tail ++ [r] := by
  rw [pushRegion, if_pos h, List.drop_one]

/-- Settles O50: the two branches of a push, below the capacity and from it on. -/
theorem pushDropsTheOldestWhenFull : Obligations.PushDropsTheOldestWhenFull := by
  unfold Obligations.PushDropsTheOldestWhenFull
  exact fun _ _ _ r => ⟨fun hbelow => pushRegion_of_lt hbelow r, fun hfull => pushRegion_of_le hfull.ge r⟩

end Sys2Proof.Machine

namespace Sys2Proof

/-- Settles O2: the header written for a well-formed instruction is dispatched to it, and bytes behind a header change nothing. -/
theorem decodeEncodeRoundTrip : Obligations.DecodeEncodeRoundTrip := by
  unfold Obligations.DecodeEncodeRoundTrip
  exact fun c i rest h => decode_encode_append rest h

/-! ### What the decoder reads, the encoder writes (30_encoding.md R41, R45) -/

/-- The 17 bytes of a whole header are what is written for its fields. -/
theorem encodeHeader_parseHeader {b : List Byte} (h : headerSize ≤ b.length) : encodeHeader (parseHeader b) = b.take headerSize := by
  have h17 : 17 ≤ b.length := h
  have hfields : encodeHeader (parseHeader b) = (List.range 17).map (byteAt b) := by
    simp only [encodeHeader, parseHeader, le32At, le16At, bytes32_le32, bytes16_le16]
    rfl
  rw [hfields]
  refine List.ext_getElem (by simp [headerSize]; omega) fun i hi _ => ?_
  simp only [List.length_map, List.length_range] at hi
  rw [List.getElem_map, List.getElem_range, byteAt_eq_getElem (by omega), List.getElem_take]

/-- The dispatch keeps the `cmd` byte. -/
theorem cmd_dispatch (c : Config) (h : Header) : (dispatch c h).cmd c = h.cmd := by
  unfold dispatch
  split_ifs with hInfo hRaw16 hRle16 hRaw8 hRle8
  · exact hInfo.symm
  · exact hRaw16.symm
  · exact hRle16.symm
  · exact hRaw8.symm
  · exact hRle8.symm
  · rfl

/-- A dispatch answers an unknown command only for a `cmd` outside the five codes. -/
theorem wf_dispatch (c : Config) (h : Header) : (dispatch c h).wf c = true := by
  unfold dispatch
  split_ifs with hInfo hRaw16 hRle16 hRaw8 hRle8
  case neg =>
    have hUnknown : h.cmd ∉ c.known := by
      simp only [Config.known, List.mem_cons, List.not_mem_nil, or_false, not_or]
      exact ⟨hInfo, hRaw16, hRle16, hRaw8, hRle8⟩
    simpa [Instr.wf] using hUnknown
  all_goals rfl

/-- Every command but an unknown one keeps all the fields of its header. -/
theorem header_dispatch {c : Config} {h : Header} (hm : h.marker = c.marker) (hk : ∀ k, dispatch c h ≠ .unknown k) :
    (dispatch c h).header c = h := by
  have hcmd := cmd_dispatch c h
  unfold dispatch at hk hcmd ⊢
  split_ifs at hk hcmd ⊢
  case neg => exact absurd rfl (hk h.cmd)
  all_goals
    simp only [Instr.header, hcmd, ← hm]

theorem take_five_encodeHeader (h : Header) : (encodeHeader h).take 5 = bytes32 h.marker ++ [h.cmd] := rfl

theorem take_five_encode (c : Config) (i : Instr) : (encode c i).take 5 = bytes32 c.marker ++ [i.cmd c] := by
  cases i <;> rfl

/-- Settles O3: a whole header is what is written for its parsed fields, of which the dispatch keeps the `cmd` byte always and
the operands of every command but an unknown one. -/
theorem decodedHeaderEncodesBack : Obligations.DecodedHeaderEncodesBack := by
  unfold Obligations.DecodedHeaderEncodesBack
  intro c b rest i h
  obtain ⟨hl, hm, rfl, rfl⟩ := decode_eq_instr.mp h
  have hm : (parseHeader b).marker = c.marker := hm
  have hwritten := encodeHeader_parseHeader hl
  refine ⟨wf_dispatch c _, rfl, ?firstFive, fun hk => ?whole⟩
  case firstFive =>
    calc b.take 5 = (b.take headerSize).take 5 := by rw [List.take_take, Nat.min_eq_left (by decide)]
      _ = bytes32 c.marker ++ [(parseHeader b).cmd] := by rw [← hwritten, take_five_encodeHeader, hm]
      _ = (encode c (dispatch c (parseHeader b))).take 5 := by rw [take_five_encode, cmd_dispatch]
  case whole => rw [encode, header_dispatch hm hk, hwritten, List.take_append_drop]

end Sys2Proof

namespace Sys2Proof.Machine

/-! ### The numbers of the events (10_state.md R13) -/

/-- What the invariant asks of events that are emitted after `k` Infos: their Infos are numbered on from `k`, each Region carries
the count of the Infos before it, and each Region is whole. -/
structure Numbered (k : Nat) (l : List Event) : Prop where
  infos   : infoSeqs l = List.range' (k + 1) (infoSeqs l).length
  regions : regionSeqs k l
  whole   : ∀ r, Event.region r ∈ l → r.whole

theorem regionSeqs_append (k : Nat) (l m : List Event) :
    regionSeqs k (l ++ m) ↔ regionSeqs k l ∧ regionSeqs (k + (infoSeqs l).length) m := by
  induction l generalizing k with
  | nil => simp [regionSeqs, infoSeqs]
  | cons e l ih => cases e <;> simp [regionSeqs, infoSeqs, ih, and_assoc, Nat.add_assoc, Nat.add_comm 1]

theorem Numbered.nil (k : Nat) : Numbered k [] := ⟨rfl, trivial, by simp⟩

theorem Numbered.diag (k : Nat) (code : DiagCode) (n : Nat) : Numbered k [.diag code n] := ⟨rfl, trivial, by simp⟩

theorem Numbered.append {k : Nat} {l m : List Event} (hl : Numbered k l) (hm : Numbered (k + (infoSeqs l).length) m) :
    Numbered k (l ++ m) where
  infos := by
    rw [infoSeqs_append, List.length_append, ← List.range'_append_1, ← hl.infos, Nat.add_right_comm, ← hm.infos]
  regions := (regionSeqs_append k l m).mpr ⟨hl.regions, hm.regions⟩
  whole r hr := (List.mem_append.mp hr).elim (hl.whole r) (hm.whole r)

/-- The one event of a FRAME record that is decoded after `k` Infos. -/
theorem numbered_frameEvent (c : Config) (w : Bool) (rec : Record) (endm : U32) : Numbered rec.seq [frameEvent c w rec endm] := by
  rcases frameEvent_cases c w rec endm with ⟨code, he⟩ | ⟨r, he, hwhole, hseq⟩
  · rw [he]
    exact .diag _ _ _
  · rw [he]
    exact ⟨rfl, ⟨hseq, trivial⟩, by simpa using hwhole⟩

theorem exec_numbered {i : Instr} {s t : State} (h : exec i s = .next t) : ∃ new, t.out = s.out ++ new ∧ Numbered s.infoSeq new := by
  rcases exec_cases h with ⟨x1, y1, x2, y2, n, -, rfl⟩ | ⟨fmt, x1, y1, x2, y2, n, -, rfl⟩ | ⟨cmd, -, rfl⟩
  · exact ⟨[.info ⟨x1, y1, x2, y2, n, s.infoSeq + 1⟩], rfl, rfl, trivial, by simp⟩
  · by_cases hw : s.buf.length < recordLength n
    · rw [runFrame_waits hw]
      exact ⟨[], by simp, .nil _⟩
    · rw [runFrame_whole (by omega)]
      exact ⟨_, rfl, numbered_frameEvent _ _ (s.frameRecord fmt x1 y1 x2 y2 n) _⟩
  · exact ⟨_, rfl, .diag _ _ _⟩

theorem discardBefore_numbered (p : Nat) (s : State) :
    ∃ new, (s.discardBefore p).out = s.out ++ new ∧ (s.discardBefore p).infoSeq = s.infoSeq ∧ infoSeqs new = [] ∧
      Numbered s.infoSeq new := by
  rw [discardBefore_eq]
  refine ⟨_, rfl, rfl, ?_⟩
  split_ifs
  · exact ⟨rfl, .diag _ _ _⟩
  · exact ⟨rfl, .nil _⟩

/-- `passStep_effect` with the numbers of the events that the iteration emits. -/
theorem passStep_effect_numbered {s t : State} (h : passStep s = .next t) :
    ∃ k new, PassEffect s t k new ∧ Numbered s.infoSeq new := by
  obtain ⟨k, new, eff, -⟩ := passStep_effect h
  suffices hn : ∃ l, t.out = s.out ++ l ∧ Numbered s.infoSeq l by
    obtain ⟨l, hl, hnum⟩ := hn
    exact ⟨k, new, eff, List.append_cancel_left (eff.out.symm.trans hl) ▸ hnum⟩
  rcases passStep_cases h with ⟨-, -, rfl⟩ | ⟨-, -, rfl⟩ | ⟨p, -, -, hrest⟩
  · exact ⟨[], by simp, .nil _⟩
  · exact ⟨_, rfl, .diag _ _ _⟩
  · obtain ⟨pre, hout, hseq, hpre, hnum⟩ := discardBefore_numbered p s
    rcases hrest with ⟨-, rfl⟩ | ⟨-, he⟩
    · exact ⟨pre, hout, hnum⟩
    · obtain ⟨new, hnew, hnum'⟩ := exec_numbered he
      rw [State.loadHR_out, hout, List.append_assoc] at hnew
      rw [State.loadHR_infoSeq, hseq] at hnum'
      exact ⟨pre ++ new, hnew, hnum.append (by rwa [hpre])⟩

/-! ### The events on their way into `Q` (48_downstream.md R107, R108) -/

theorem length_foldl_routeRegion_le {qcap : Nat} (hc : 0 < qcap) (l : List Event) {q : List Region} (hq : q.length ≤ qcap) :
    (l.foldl (routeRegion qcap) q).length ≤ qcap := by
  induction l generalizing q with
  | nil => exact hq
  | cons e l ih =>
    cases e with
    | info i => exact ih hq
    | region r => exact ih (length_pushRegion_le hc hq r)
    | diag code n => exact ih hq

theorem mem_foldl_routeRegion {qcap : Nat} {l : List Event} {q : List Region} {r : Region}
    (h : r ∈ l.foldl (routeRegion qcap) q) : r ∈ q ∨ Event.region r ∈ l := by
  induction l generalizing q with
  | nil => exact .inl h
  | cons e l ih =>
    rcases ih h with hq | hl
    · cases e with
      | info i => exact .inl hq
      | region r' =>
        rcases mem_pushRegion hq with hq | rfl
        · exact .inl hq
        · exact .inr List.mem_cons_self
      | diag code n => exact .inl hq
    · exact .inr (List.mem_cons_of_mem _ hl)

/-! ### Every step keeps the invariant -/

section
variable {s t : State}

theorem Inv.numbered (h : Inv s) : Numbered 0 s.out where
  infos := by rw [h.infosNumbered, List.length_range', Nat.zero_add]
  regions := h.regionsNumbered
  whole := h.outWhole

theorem Inv.length_infoSeqs (h : Inv s) : (infoSeqs s.out).length = s.infoSeq := by rw [h.infosNumbered, List.length_range']

/-- Events numbered on from `INFO_SEQ` keep the log numbered. -/
theorem Inv.numbered_append (h : Inv s) {new : List Event} (hn : Numbered s.infoSeq new) : Numbered 0 (s.out ++ new) :=
  h.numbered.append (by rwa [h.length_infoSeqs, Nat.zero_add])

/-- An iteration of the pass removes bytes at the front, counts them in `POS`, and emits numbered events. -/
theorem inv_passStep (h : Inv s) (hp : s.phase ≠ .idle) (hs : passStep s = .next t) : Inv t := by
  obtain ⟨k, new, eff, hnum⟩ := passStep_effect_numbered hs
  have hovf : t.ovf = false := by
    rw [eff.ovf]
    exact Bool.eq_false_iff.mpr fun ho => hp (h.ovfIdle ho)
  have hlen : t.buf.length = s.buf.length - k := by rw [eff.buf, List.length_drop]
  have hout := h.numbered_append hnum
  rw [← eff.out] at hout
  have hcount : (infoSeqs t.out).length = t.infoSeq := by
    rw [eff.out, infoSeqs_append, List.length_append, h.length_infoSeqs, eff.infoSeq]
  refine
    { bufBounded := fun cap hcap => ?_
      posCounts := ?_
      posFromReset := by rw [eff.cfg, eff.posBase]; exact h.posFromReset
      ovfNeedsCap := fun _ => hovf
      ovfIdle := fun ho => absurd (hovf ▸ ho) Bool.false_ne_true
      enoughAtA := passStep_atA hs
      idleQuiescent := passStep_stops hs
      queueBounded := ?_
      queueWhole := fun r hr => ?_
      outWhole := hout.whole
      infosNumbered := by simpa [hcount] using hout.infos
      regionsNumbered := hout.regions
      canvasWf := eff.canvas ▸ h.canvasWf
      shownWf := eff.shown ▸ h.shownWf }
  · have := h.bufBounded cap (eff.cfg ▸ hcap)
    omega
  · rw [hlen, eff.pos, eff.posBase, eff.ingested, ← h.posCounts]
    have := eff.removed
    omega
  · rw [eff.queue, eff.cfg]
    exact length_foldl_routeRegion_le s.cfg.qcapPos new h.queueBounded
  · rw [eff.queue] at hr
    exact (mem_foldl_routeRegion hr).elim (h.queueWhole r) (hnum.whole r)

theorem inv_acceptChunk (h : Inv s) (hp : s.phase = .idle) (chunk : List Byte) : Inv (acceptChunk chunk s) := by
  unfold acceptChunk
  split
  · rename_i hover
    have hout := h.numbered_append (.diag s.infoSeq .overflow chunk.length)
    refine
      { h with
        ovfNeedsCap := fun hcap => ?_
        ovfIdle := fun _ => hp
        outWhole := hout.whole
        infosNumbered := ?_
        regionsNumbered := hout.regions }
    · have hcap : s.cfg.bufCap = none := hcap
      simp [ovfAfter, exceedsCap, hcap, h.ovfNeedsCap hcap] at hover
    · rw [State.raiseOverflow_out, infoSeqs_append, h.infosNumbered]
      exact List.append_nil _
  · rename_i hfits
    simp only [ovfAfter, exceedsCap, Bool.or_eq_true, not_or, Bool.not_eq_true] at hfits
    obtain ⟨hovf, hcap⟩ := hfits
    refine
      { h with
        bufBounded := fun cap hc => ?_
        posCounts := ?_
        ovfIdle := fun ho => absurd (hovf ▸ ho) Bool.false_ne_true
        enoughAtA := nofun
        idleQuiescent := nofun }
    · have hc : s.cfg.bufCap = some cap := hc
      simpa [hc] using hcap
    · rw [List.length_append, ← Nat.add_assoc, h.posCounts, Nat.add_assoc]

/-- A buffer with no byte is one at which a pass stops. -/
theorem quiescent_of_buf_nil (h : s.buf = []) : Quiescent s := .inl (by simp [h])

theorem inv_consumerOnFull (h : Inv s) : Inv s.consumerOnFull := by
  unfold State.consumerOnFull
  split
  · exact h
  · exact
      { h with
        queueBounded := Nat.zero_le _
        queueWhole := by simp
        canvasWf := trivial
        shownWf := nofun }

theorem inv_fullReset (h : Inv s) : Inv s.fullReset :=
  inv_consumerOnFull
    { h with
      bufBounded := fun _ _ => Nat.zero_le _
      posCounts := rfl
      posFromReset := fun _ => rfl
      ovfNeedsCap := fun _ => rfl
      ovfIdle := fun _ => rfl
      enoughAtA := nofun
      idleQuiescent := fun _ => quiescent_of_buf_nil rfl
      outWhole := by simp
      infosNumbered := rfl
      regionsNumbered := trivial }

theorem inv_clearBuf (h : Inv s) (hp : s.phase = .idle) (hc : s.cfg.reconnectClearsBuffer = true) : Inv s.clearBuf :=
  { h with
    bufBounded := fun _ _ => Nat.zero_le _
    posCounts := rfl
    posFromReset := fun hor => by
      rcases hor with hno | hrestart
      · simp [hc] at hno
      · rw [State.clearBuf_cfg] at hrestart
        rw [State.clearBuf_posBase, hrestart, posAfterClear]
    enoughAtA := fun hA => by rw [State.clearBuf_phase, hp] at hA; cases hA
    idleQuiescent := fun _ => quiescent_of_buf_nil rfl }

theorem inv_reconnect (h : Inv s) (hp : s.phase = .idle) : Inv s.reconnect := by
  have hq : Inv { s with queue := [] } := { h with queueBounded := Nat.zero_le _, queueWhole := by simp }
  unfold State.reconnect
  split
  · exact inv_clearBuf hq hp ‹_›
  · exact hq

theorem inv_transact (h : Inv s) (hp : s.phase = .idle) (x : Transaction) : Inv (transact x s) := by
  cases x with
  | chunk first rest => exact inv_acceptChunk h hp _
  | ctrl v => exact { h with }
  | rst kind =>
    cases kind with
    | full => exact inv_fullReset h
    | liveness => exact h
    | reconnect => exact inv_reconnect h hp

theorem inv_takeInput (h : Inv s) (hp : s.phase = .idle) : Inv (takeInput s) := by
  rcases takeInput_cases s with ⟨-, e⟩ | ⟨x, rest, -, e⟩
  · rwa [e]
  · rw [e]
    have hoffered : Inv { s with inputs := rest } := { h with }
    exact inv_transact hoffered hp x

theorem inv_tick (h : Inv s) : Inv (tick s) := by
  have hcanvas := foldl_wf (fun _ r hv => writeRegion_wf s.cfg hv r) s.queue
    (foldl_wf (fun _ i hv => applyInfo_wf s.cfg hv i) s.pendingInfo h.canvasWf)
  rw [tick_eq]
  exact
    { h with
      queueBounded := Nat.zero_le _
      queueWhole := by simp
      canvasWf := hcanvas
      shownWf := fun _ hc => Option.some.inj hc ▸ hcanvas }

theorem inv_loseConnection (h : Inv s) : Inv (loseConnection s) := by
  unfold loseConnection
  split
  · exact h
  · exact { h with canvasWf := blankCanvas_wf h.canvasWf }

theorem inv_turnTaken (h : Inv s) : Inv s.turnTaken := { h with }

end

/-- Settles O60: one case for each thing a step can do, a transaction, an iteration of the pass, a tick, a loss of connection. -/
theorem everyStepKeepsTheInvariant : Obligations.EveryStepKeepsTheInvariant := by
  unfold Obligations.EveryStepKeepsTheInvariant
  intro s t hs h
  have htaken := inv_turnTaken hs
  rcases step_cases h with ⟨-, hp, rfl⟩ | ⟨-, hp, hpass⟩ | ⟨-, rfl⟩ | ⟨-, rfl⟩
  · exact inv_takeInput htaken hp
  · exact inv_passStep htaken hp hpass
  · exact inv_tick htaken
  · exact inv_loseConnection htaken

/-- Settles O59: between passes with an empty buffer, empty queues, no events and no canvas. -/
theorem resetMeetsTheInvariant : Obligations.ResetMeetsTheInvariant := by
  unfold Obligations.ResetMeetsTheInvariant
  exact fun c =>
    { bufBounded := fun _ _ => Nat.zero_le _
      posCounts := rfl
      posFromReset := fun _ => rfl
      ovfNeedsCap := fun _ => rfl
      ovfIdle := fun _ => rfl
      enoughAtA := nofun
      idleQuiescent := fun _ => quiescent_of_buf_nil rfl
      queueBounded := Nat.zero_le _
      queueWhole := nofun
      outWhole := nofun
      infosNumbered := rfl
      regionsNumbered := trivial
      canvasWf := trivial
      shownWf := nofun }

end Sys2Proof.Machine

namespace Sys2Proof.Machine

/-! ### A chunk on the `in` port (10_state.md R5, 60_exceptions.md R133) -/

section
variable {s : State} {first : Byte} {rest : List Byte} {ins : List Transaction}

theorem ovfAfter_iff {n : Nat} : ovfAfter s n = true ↔ s.ovf = true ∨ ∃ cap, s.cfg.bufCap = some cap ∧ cap < s.buf.length + n := by
  unfold ovfAfter exceedsCap
  cases s.cfg.bufCap <;> simp

theorem step_chunk_accepted (hb : BlockTurn s) (hp : s.phase = .idle) (hi : s.inputs = .chunk first rest :: ins)
    (hfits : ¬ovfAfter s (rest.length + 1) = true) :
    step s = .next { s with
      turns := s.turns.tail, inputs := ins, buf := s.buf ++ first :: rest, ingested := s.ingested + (rest.length + 1), phase := .atL } :=
  (step_takes hb hp hi).trans (congrArg _ (if_neg hfits))

theorem step_chunk_refused (hb : BlockTurn s) (hp : s.phase = .idle) (hi : s.inputs = .chunk first rest :: ins)
    (hover : ovfAfter s (rest.length + 1) = true) :
    step s = .next { s with
      turns := s.turns.tail, inputs := ins, ovf := true, out := s.out ++ [.diag .overflow (rest.length + 1)] } :=
  (step_takes hb hp hi).trans (congrArg _ (if_pos hover))

/-- Without a finite capacity no chunk is refused (10_state.md R16). -/
theorem not_ovfAfter_of_unbounded (hcap : s.cfg.bufCap = none) (ho : s.ovf = false) (n : Nat) : ¬ovfAfter s n = true := by
  rw [ovfAfter_iff, ho, hcap]
  simp

end

/-- Settles O40: a chunk is refused exactly when `OVF` is set after it, and that is when it was set or the capacity is exceeded. -/
theorem chunkIsAppendedOrRefusedWhole : Obligations.ChunkIsAppendedOrRefusedWhole := by
  unfold Obligations.ChunkIsAppendedOrRefusedWhole
  intro s first rest ins hb hp hi
  refine ⟨fun ho hcap => step_chunk_accepted hb hp hi fun h => ?_, fun h => step_chunk_refused hb hp hi (ovfAfter_iff.mpr h)⟩
  rcases ovfAfter_iff.mp h with hset | ⟨cap, hc, hlt⟩
  · exact absurd (ho.symm.trans hset) Bool.false_ne_true
  · exact absurd hlt (Nat.not_lt.mpr (hcap cap hc))

end Sys2Proof.Machine

namespace Sys2Proof

/-- Every instruction is an INFO, the FRAME command of a format, or an unknown command. -/
theorem Instr.cases (i : Instr) :
    (∃ x1 y1 x2 y2 n, i = .info x1 y1 x2 y2 n) ∨ (∃ fmt x1 y1 x2 y2 n, i = Fmt.instr fmt x1 y1 x2 y2 n) ∨
      ∃ k, i = .unknown k := by
  cases i with
  | info x1 y1 x2 y2 n => exact .inl ⟨_, _, _, _, _, rfl⟩
  | frameRaw16 x1 y1 x2 y2 n => exact .inr (.inl ⟨.raw16, _, _, _, _, _, rfl⟩)
  | frameRle16 x1 y1 x2 y2 n => exact .inr (.inl ⟨.rle16, _, _, _, _, _, rfl⟩)
  | frameRaw8 x1 y1 x2 y2 n => exact .inr (.inl ⟨.raw8, _, _, _, _, _, rfl⟩)
  | frameRle8 x1 y1 x2 y2 n => exact .inr (.inl ⟨.rle8, _, _, _, _, _, rfl⟩)
  | unknown k => exact .inr (.inr ⟨_, rfl⟩)

end Sys2Proof

namespace Sys2Proof.Machine

/-! ### What the `out` port will carry (40_framer.md R75)

The whole future of the `out` port is a function of the bytes of the stream that are not yet consumed, wherever they stand: in `BUF`
or in chunks still to come. No step of a run changes that function's value, so the cut into chunks cannot. -/

/-- All that the Info and Region events of a stream depend on: the parameters, `SWAP16`, the events so far, `INFO_SEQ`, the bytes. -/
structure Stream where
  cfg     : Config
  swap16  : Bool
  out     : List Event
  infoSeq : Nat
  buf     : List Byte

/-- The stream of a state, its bytes those in `BUF`. -/
def State.stream (s : State) : Stream := ⟨s.cfg, s.swap16, outPort s.out, s.infoSeq, s.buf⟩

namespace Stream

/-- More bytes at the end. -/
def append (v : Stream) (x : List Byte) : Stream := { v with buf := v.buf ++ x }

/-- Bytes removed at the front. -/
def drop (k : Nat) (v : Stream) : Stream := { v with buf := v.buf.drop k }

/-- An event on its way to the port: an Info or a Region goes there, a Diag does not. -/
def emit (e : Event) (v : Stream) : Stream := { v with out := v.out ++ outPort [e] }

/-- A FRAME record at the front: its one event is emitted; `none` when the record is not whole. -/
def frame (fmt : Fmt) (x1 y1 x2 y2 : U16) (n : U32) (v : Stream) : Option Stream :=
  if v.buf.length < recordLength n then none
  else some ((v.emit (frameEvent v.cfg v.swap16
    ⟨fmt, x1, y1, x2, y2, n, (v.buf.drop headerSize).take n.toNat, recordLength n, v.infoSeq⟩
    (le32At v.buf (headerSize + n.toNat)))).drop (recordLength n))

/-- The command at the front; `none` when it waits. -/
def run (v : Stream) : Instr → Option Stream
  | .info x1 y1 x2 y2 n       =>
    some ((emit (.info ⟨x1, y1, x2, y2, n, v.infoSeq + 1⟩) { v with infoSeq := v.infoSeq + 1 }).drop headerSize)
  | .frameRaw16 x1 y1 x2 y2 n => v.frame .raw16 x1 y1 x2 y2 n
  | .frameRle16 x1 y1 x2 y2 n => v.frame .rle16 x1 y1 x2 y2 n
  | .frameRaw8 x1 y1 x2 y2 n  => v.frame .raw8 x1 y1 x2 y2 n
  | .frameRle8 x1 y1 x2 y2 n  => v.frame .rle8 x1 y1 x2 y2 n
  | .unknown _                => some (v.drop 1)

theorem run_instr (v : Stream) (fmt : Fmt) (x1 y1 x2 y2 : U16) (n : U32) :
    v.run (fmt.instr x1 y1 x2 y2 n) = v.frame fmt x1 y1 x2 y2 n := by
  cases fmt <;> rfl

theorem frame_short {fmt : Fmt} {x1 y1 x2 y2 : U16} {n : U32} {v : Stream} (h : v.buf.length < recordLength n) :
    v.frame fmt x1 y1 x2 y2 n = none := if_pos h

/-- A command that does not wait removes at least one byte of a whole header. -/
theorem length_run_lt {v u : Stream} {i : Instr} (hl : headerSize ≤ v.buf.length) (h : v.run i = some u) :
    u.buf.length < v.buf.length := by
  have hl : 17 ≤ v.buf.length := hl
  rcases i.cases with ⟨x1, y1, x2, y2, n, rfl⟩ | ⟨fmt, x1, y1, x2, y2, n, rfl⟩ | ⟨k, rfl⟩
  · cases h
    simp only [drop, emit, List.length_drop, headerSize]
    omega
  · rw [run_instr, frame] at h
    split at h
    · cases h
    · cases h
      simp only [drop, emit, List.length_drop, recordLength, headerSize]
      omega
  · cases h
    simp only [drop, List.length_drop]
    omega

/-- A command that does not wait does the same with more bytes behind it (40_framer.md R64). -/
theorem run_append {v u : Stream} {i : Instr} (x : List Byte) (hl : headerSize ≤ v.buf.length) (h : v.run i = some u) :
    (v.append x).run i = some (u.append x) := by
  have dropAppend (k : Nat) (hk : k ≤ v.buf.length) : (v.buf ++ x).drop k = v.buf.drop k ++ x :=
    List.drop_append_of_le_length hk
  rcases i.cases with ⟨x1, y1, x2, y2, n, rfl⟩ | ⟨fmt, x1, y1, x2, y2, n, rfl⟩ | ⟨k, rfl⟩
  · cases h
    simp only [run, append, drop, emit, dropAppend headerSize hl]
  · rw [run_instr, frame] at h ⊢
    split at h
    · cases h
    · rename_i hwhole
      have hwhole : recordLength n ≤ v.buf.length := Nat.not_lt.mp hwhole
      have hend : headerSize + n.toNat + 4 ≤ v.buf.length := hwhole
      have hlong : ¬(v.buf ++ x).length < recordLength n := by
        rw [List.length_append]
        omega
      have hpayload : ((v.buf ++ x).drop headerSize).take n.toNat = (v.buf.drop headerSize).take n.toNat := by
        rw [dropAppend headerSize hl, List.take_append_of_le_length]
        rw [List.length_drop]
        omega
      cases h
      simp only [append, drop, emit, if_neg hlong, hpayload, le32At_append_left hend, dropAppend (recordLength n) hwhole]
  · cases h
    simp only [run, append, drop, dropAppend 1 (Nat.le_trans (by decide) hl)]

/-- What stands at the front is consumed: a header's command is run, or a byte at which no marker begins is skipped; `none` where
more bytes are needed. -/
def advance (v : Stream) : Option Stream :=
  match decode v.cfg v.buf with
  | .truncated => none
  | .badMarker => some (v.drop 1)
  | .instr i _ => v.run i

theorem advance_short {v : Stream} (h : v.buf.length < headerSize) : v.advance = none := by
  rw [advance, decode, if_pos h]

theorem advance_skip {v : Stream} (hl : ¬v.buf.length < headerSize) (hm : le32At v.buf 0 ≠ v.cfg.marker) :
    v.advance = some (v.drop 1) := by
  rw [advance, decode, if_neg hl, if_neg hm]

theorem advance_decoded {v : Stream} {i : Instr} {rest : List Byte} (h : decode v.cfg v.buf = .instr i rest) :
    v.advance = v.run i := by
  rw [advance, h]

theorem length_advance_lt {v u : Stream} (h : v.advance = some u) : u.buf.length < v.buf.length := by
  by_cases hl : v.buf.length < headerSize
  · rw [advance_short hl] at h
    cases h
  · by_cases hm : le32At v.buf 0 = v.cfg.marker
    · have hl : headerSize ≤ v.buf.length := Nat.not_lt.mp hl
      rw [advance_decoded (decode_eq_instr.mpr ⟨hl, hm, rfl, rfl⟩)] at h
      exact length_run_lt hl h
    · rw [advance_skip hl hm] at h
      cases h
      simp only [headerSize] at hl
      simp only [drop, List.length_drop]
      omega

/-- The events of the `out` port and `INFO_SEQ` once the stream is consumed as far as it goes. -/
def finish (v : Stream) : List Event × Nat :=
  match _h : v.advance with
  | none   => (v.out, v.infoSeq)
  | some u => finish u
termination_by v.buf.length
decreasing_by exact length_advance_lt _h

theorem finish_of_none {v : Stream} (h : v.advance = none) : v.finish = (v.out, v.infoSeq) := by
  rw [finish]
  split
  · rfl
  · rename_i hsome
    cases h.symm.trans hsome

theorem finish_of_some {v u : Stream} (h : v.advance = some u) : v.finish = u.finish := by
  rw [finish]
  split
  · rename_i hnone
    cases h.symm.trans hnone
  · rename_i hsome
    cases h.symm.trans hsome
    rfl

theorem finish_short {v : Stream} (h : v.buf.length < headerSize) : v.finish = (v.out, v.infoSeq) :=
  finish_of_none (advance_short h)

/-- Where no marker stands the first byte is skipped. -/
theorem finish_drop_one {v : Stream} (h : le32At v.buf 0 ≠ v.cfg.marker) : (v.drop 1).finish = v.finish := by
  by_cases hl : v.buf.length < headerSize
  · have hl' : (v.drop 1).buf.length < headerSize := by simp only [drop, List.length_drop]; omega
    rw [finish_short hl, finish_short hl']
    rfl
  · exact (finish_of_some (advance_skip hl h)).symm

/-- The bytes below the lowest marker are skipped. -/
theorem finish_drop {v : Stream} {k : Nat} (h : ∀ q < k, le32At v.buf q ≠ v.cfg.marker) : (v.drop k).finish = v.finish := by
  induction k with
  | zero => rfl
  | succ k ih =>
    have hk : le32At (v.drop k).buf 0 ≠ (v.drop k).cfg.marker := by
      simp only [drop, le32At_drop]
      exact h k (Nat.lt_succ_self k)
    have hsplit : v.drop (k + 1) = (v.drop k).drop 1 := by simp only [drop, List.drop_drop]
    rw [hsplit, finish_drop_one hk, ih fun q hq => h q (Nat.lt_succ_of_lt hq)]

end Stream

/-! ### A pass keeps what the `out` port will carry -/

@[simp] theorem stream_gotoL (s : State) : s.gotoL.stream = s.stream := rfl
@[simp] theorem stream_gotoA (s : State) : s.gotoA.stream = s.stream := rfl
@[simp] theorem stream_stopPass (s : State) : s.stopPass.stream = s.stream := rfl
@[simp] theorem stream_loadHR (h : Header) (s : State) : (s.loadHR h).stream = s.stream := rfl
@[simp] theorem stream_remove (k : Nat) (s : State) : (s.remove k).stream = s.stream.drop k := rfl

@[simp] theorem stream_emit (e : Event) (s : State) : (s.emit e).stream = s.stream.emit e := by
  simp only [State.stream, Stream.emit, State.emit_out, outPort, List.filter_append, State.emit_cfg, State.emit_swap16,
    State.emit_infoSeq, State.emit_buf]

@[simp] theorem stream_emitDiag (code : DiagCode) (n : Nat) (s : State) : (s.emitDiag code n).stream = s.stream := by
  rw [State.emitDiag, stream_emit, Stream.emit]
  exact congrArg (fun l => { s.stream with out := l }) (List.append_nil _)

@[simp] theorem stream_discardBefore (p : Nat) (s : State) : (s.discardBefore p).stream = s.stream.drop p := by
  cases p with
  | zero => rfl
  | succ p => exact stream_emitDiag .preSync (p + 1) (s.remove (p + 1))

/-- A command does to the stream of its state what `Stream.run` says. -/
theorem exec_stream {i : Instr} {s t : State} (h : exec i s = .next t) :
    (s.stream.run i = none ∧ t.stream = s.stream) ∨ s.stream.run i = some t.stream := by
  rcases exec_cases h with ⟨x1, y1, x2, y2, n, rfl, rfl⟩ | ⟨fmt, x1, y1, x2, y2, n, rfl, rfl⟩ | ⟨cmd, rfl, rfl⟩
  · right
    rw [stream_gotoL, stream_remove, stream_emit]
    rfl
  · rw [Stream.run_instr]
    by_cases hw : s.buf.length < recordLength n
    · rw [runFrame_waits hw]
      exact .inl ⟨Stream.frame_short hw, rfl⟩
    · rw [runFrame_whole (by omega), stream_gotoL, stream_emit]
      exact .inr (if_neg hw)
  · right
    rw [stream_gotoA, stream_emitDiag]
    rfl

/-- No iteration of the pass changes what the `out` port will carry, whatever bytes are still to come. -/
theorem passStep_finish {s t : State} (h : passStep s = .next t) (x : List Byte) :
    (t.stream.append x).finish = (s.stream.append x).finish := by
  have hskip : ∀ k, (∀ q < k, q + 4 ≤ s.buf.length ∧ le32At s.buf q ≠ s.cfg.marker) → k ≤ s.buf.length →
      ((s.stream.drop k).append x).finish = (s.stream.append x).finish := by
    intro k hno hk
    have hcomm : (s.stream.drop k).append x = (s.stream.append x).drop k := by
      simp only [Stream.append, Stream.drop, List.drop_append_of_le_length (show k ≤ s.stream.buf.length from hk)]
    rw [hcomm, Stream.finish_drop]
    intro q hq
    obtain ⟨hq4, hne⟩ := hno q hq
    rwa [show (s.stream.append x).buf = s.buf ++ x from rfl, le32At_append_left hq4]
  rcases passStep_cases h with ⟨-, -, rfl⟩ | ⟨-, hnone, rfl⟩ | ⟨p, -, hf, hrest⟩
  · rfl
  · rw [State.discardAll, stream_stopPass, stream_emitDiag, stream_remove]
    refine hskip _ (fun q hq => ⟨by omega, findMarker_none hnone q (by omega)⟩) (Nat.sub_le _ _)
  · obtain ⟨hp4, hm, hmin⟩ := findMarker_some hf
    have hbefore := hskip p (fun q hq => ⟨by omega, hmin q hq⟩) (by omega)
    rw [← hbefore, ← stream_discardBefore]
    rcases hrest with ⟨-, rfl⟩ | ⟨hl, he⟩
    · rfl
    · have hwhole : headerSize ≤ (s.buf.drop p).length := by rw [List.length_drop]; omega
      have hd : decode s.cfg (s.buf.drop p) = .instr (dispatch s.cfg (parseHeader (s.buf.drop p))) ((s.buf.drop p).drop headerSize) :=
        decode_eq_instr.mpr ⟨hwhole, by rwa [le32At_drop], rfl, rfl⟩
      rcases exec_stream he with ⟨-, e⟩ | e
      · rw [e, stream_loadHR]
      · rw [stream_loadHR, stream_discardBefore] at e
        rw [stream_discardBefore]
        exact (Stream.finish_of_some ((Stream.advance_decoded (decode_append x hd)).trans (Stream.run_append x hwhole e))).symm

/-- Where a pass stops, the port has carried all that the bytes in `BUF` hold (40_framer.md R79). -/
theorem finish_of_quiescent {s : State} (h : Quiescent s) : s.stream.finish = (outPort s.out, s.infoSeq) := by
  rcases h with hl | ⟨fmt, x1, y1, x2, y2, n, rest, hd, hw⟩
  · exact Stream.finish_short hl
  · exact Stream.finish_of_none ((Stream.advance_decoded hd).trans ((Stream.run_instr ..).trans (Stream.frame_short hw)))

/-! ### A run over chunks keeps it, too -/

/-- The chunk of a first byte and the others. -/
def chunkOf (c : Byte × List Byte) : Transaction := .chunk c.1 c.2

/-- The bytes of a list of chunks. -/
def chunkBytes (cs : List (Byte × List Byte)) : List Byte := cs.flatMap fun c => c.1 :: c.2

/-- `s` is on its way through a stream: the chunks `cs` are still to come, none can be refused, nothing else is offered, and the block
has every turn. Where it has taken the last chunk and is between passes, a pass has stopped. -/
structure Streaming (s : State) (cs : List (Byte × List Byte)) : Prop where
  turns  : s.turns = []
  bufCap : s.cfg.bufCap = none
  ovf    : s.ovf = false
  inputs : s.inputs = cs.map chunkOf
  ended  : s.phase = .idle → cs = [] → Quiescent s

/-- What the `out` port will carry once the bytes in `BUF` and the chunks `cs` are consumed. -/
def future (s : State) (cs : List (Byte × List Byte)) : List Event × Nat := (s.stream.append (chunkBytes cs)).finish

/-- With nothing offered and no turn listed the block's turn between passes changes nothing (60_exceptions.md R142). -/
theorem takeInput_turnTaken_of_nothing {s : State} (ht : s.turns = []) (hi : s.inputs = []) : takeInput s.turnTaken = s := by
  obtain ⟨-, e⟩ | ⟨x, rest, hx, -⟩ := takeInput_cases s.turnTaken
  · rw [e, State.turnTaken, ht, List.tail_nil, ← ht]
  · rw [State.turnTaken_inputs, hi] at hx
    cases hx

/-- A step takes the next chunk or leaves the chunks as they are, and what the `out` port will carry stays the same. -/
theorem streaming_step {s t : State} {cs : List (Byte × List Byte)} (h : Streaming s cs) (hs : step s = .next t) :
    ∃ ds, Streaming t ds ∧ future t ds = future s cs := by
  have hb : BlockTurn s := .inl h.turns
  by_cases hp : s.phase = .idle
  · cases cs with
    | nil =>
      rw [step_idle hb hp, takeInput_turnTaken_of_nothing h.turns h.inputs] at hs
      cases hs
      exact ⟨[], h, rfl⟩
    | cons c cs =>
      rw [step_chunk_accepted hb hp h.inputs (not_ovfAfter_of_unbounded h.bufCap h.ovf _)] at hs
      cases hs
      refine ⟨cs, ⟨by simp [h.turns], h.bufCap, h.ovf, rfl, nofun⟩, ?_⟩
      simp only [future, Stream.append, State.stream, chunkBytes, List.flatMap_cons, List.append_assoc]
  · rw [step_pass hb hp] at hs
    obtain ⟨k, new, eff, -⟩ := passStep_effect hs
    refine ⟨cs, ?_, passStep_finish hs _⟩
    exact
      { turns := by rw [eff.turns, State.turnTaken_turns, h.turns, List.tail_nil]
        bufCap := by rw [eff.cfg]; exact h.bufCap
        ovf := eff.ovf.trans h.ovf
        inputs := eff.inputs.trans h.inputs
        ended := fun hidle _ => passStep_stops hs hidle }

/-- A good end of a run over at least one chunk: the port has carried all that the whole stream holds. -/
theorem port_of_goodEnd {s t : State} {cs : List (Byte × List Byte)} {n : Nat} (hs : Streaming s cs) (hr : Reaches n s t)
    (he : GoodEnd t) : (outPort t.out, t.infoSeq) = future s cs := by
  obtain ⟨ds, ht, hfuture⟩ : ∃ ds, Streaming t ds ∧ future t ds = future s cs := by
    refine reaches_induction (P := fun u => ∃ ds, Streaming u ds ∧ future u ds = future s cs) ?_ hr ⟨cs, hs, rfl⟩
    rintro u v ⟨ds, hu, hfuture⟩ hstep
    obtain ⟨es, hv, hsame⟩ := streaming_step hu hstep
    exact ⟨es, hv, hsame.trans hfuture⟩
  obtain ⟨hidle, hinputs, -⟩ := he
  have hds : ds = [] := List.map_eq_nil_iff.mp (ht.inputs.symm.trans hinputs)
  subst hds
  have hnone : t.stream.append (chunkBytes []) = t.stream := congrArg (fun b => { t.stream with buf := b }) (List.append_nil _)
  rw [← hfuture, future, hnone, finish_of_quiescent (ht.ended hidle rfl)]

theorem chunkBytes_eq_nil {cs : List (Byte × List Byte)} : chunkBytes cs = [] ↔ cs = [] := by
  cases cs <;> simp [chunkBytes]

/-- With nothing offered and no turn listed a run between passes stays where it is. -/
theorem reaches_of_nothing {s t : State} {n : Nat} (hp : s.phase = .idle) (ht : s.turns = []) (hi : s.inputs = [])
    (hr : Reaches n s t) : t = s := by
  refine reaches_induction (P := (· = s)) ?_ hr rfl
  rintro u v rfl hstep
  rw [step_idle (.inl ht) hp, takeInput_turnTaken_of_nothing ht hi] at hstep
  cases hstep
  rfl

/-- Settles O19: nothing a run over chunks does changes what the `out` port will carry once all bytes are consumed, and two splits
of one byte string begin with the same bytes to consume. Without a byte there is no chunk, and both runs stay where they are. -/
theorem chunkingIndependence : Obligations.ChunkingIndependence := by
  unfold Obligations.ChunkingIndependence
  intro s t u cs ds m n hidle hturns hinputs hcap hovf hbytes hrt ht hru hu
  have hbytes : chunkBytes cs = chunkBytes ds := hbytes
  have start : ∀ es : List (Byte × List Byte), es ≠ [] → Streaming (s.offered (es.map chunkOf)) es := fun es hne =>
    ⟨hturns, hcap, hovf, by rw [State.offered_inputs, hinputs, List.append_nil], fun _ h => absurd h hne⟩
  have hempty : cs = [] ↔ ds = [] := by
    rw [← chunkBytes_eq_nil, hbytes, chunkBytes_eq_nil]
  by_cases hcs : cs = []
  · have stays {k : Nat} {v : State} (hr : Reaches k (s.offered []) v) : v = s.offered [] := reaches_of_nothing hidle hturns hinputs hr
    rw [hcs] at hrt
    rw [hempty.mp hcs] at hru
    rw [stays hrt, stays hru]
    exact ⟨rfl, rfl⟩
  · have hport : (outPort t.out, t.infoSeq) = (outPort u.out, u.infoSeq) := by
      rw [port_of_goodEnd (start cs hcs) hrt ht, port_of_goodEnd (start ds (hempty.not.mp hcs)) hru hu]
      exact congrArg (fun b => (s.stream.append b).finish) hbytes
    exact Prod.mk.inj hport

end Sys2Proof.Machine

namespace Sys2Proof.Machine

/-! ### The pass: what its steps run and where it stops (40_framer.md R58, R74, R79) -/

theorem step_decoded {s : State} {i : Instr} {rest : List Byte} (hb : BlockTurn s) (hp : s.phase ≠ .idle)
    (hd : decode s.cfg s.buf = .instr i rest) : step s = exec i { s with turns := s.turns.tail, hr := parseHeader s.buf } := by
  rw [step_pass hb hp, passStep_decoded (s := s.turnTaken) hd]
  rfl

/-- Settles O7: the marker at `BUF[0]` is the lowest, so nothing is discarded before the command is run. -/
theorem stepRunsTheDecodedInstruction : Obligations.StepRunsTheDecodedInstruction := by
  unfold Obligations.StepRunsTheDecodedInstruction
  exact fun s i rest hb hp hd => step_decoded hb hp hd

/-- Settles O9: the test at the loop head. -/
theorem loopHeadStopsBelowSeventeenBytes : Obligations.LoopHeadStopsBelowSeventeenBytes := by
  unfold Obligations.LoopHeadStopsBelowSeventeenBytes
  intro s hb hL hl
  exact ⟨_, (step_pass hb (by simp [hL])).trans (passStep_short ⟨hL, hl⟩)⟩

/-- A pass that begins at a quiescent buffer stops at once (20_memory.md R33). -/
theorem passStep_quiescent {s : State} (hL : s.phase = .atL) (hq : Quiescent s) : passStep s = .next s.stopPass := by
  rcases hq with hl | ⟨fmt, x1, y1, x2, y2, n, rest, hd, hw⟩
  · exact passStep_short ⟨hL, hl⟩
  · rw [passStep_decoded hd, exec_instr, runFrame_waits (s := s.loadHR (parseHeader s.buf)) hw]
    rfl

/-- Settles O11: the stop states are those of `passStep_stops`. -/
theorem passStopsOnlyInAStopState : Obligations.PassStopsOnlyInAStopState := by
  unfold Obligations.PassStopsOnlyInAStopState
  intro s t hb hp h hidle
  rw [step_pass hb hp] at h
  rcases passStep_stops h hidle with hl | ⟨fmt, x1, y1, x2, y2, n, rest, hd, hw⟩
  · exact .inl hl
  · refine .inr ⟨fmt, x1, y1, x2, y2, n, rest, hd, ?_⟩
    simp only [recordLength, headerSize, endSize] at hw
    omega

/-- Settles O12: where a pass stops, the buffer is one at which the next pass stops at once. -/
theorem passIsIdempotent : Obligations.PassIsIdempotent := by
  unfold Obligations.PassIsIdempotent
  intro s t hb hp h hidle hturns
  rw [step_pass hb hp] at h
  have hq : Quiescent t := passStep_stops h hidle
  have hstep : step { t with phase := .atL } = passStep { t.turnTaken with phase := .atL } := step_pass (.inl hturns) (by simp)
  exact ⟨_, hstep.trans (passStep_quiescent rfl hq), rfl, rfl, rfl, rfl, rfl⟩

/-- Settles O13: every step answers a next state. -/
theorem everyRunGoesOn : Obligations.EveryRunGoesOn := by
  unfold Obligations.EveryRunGoesOn
  intro n
  induction n with
  | zero => exact fun s => ⟨s, reaches_zero.mpr rfl⟩
  | succ n ih =>
    intro s
    obtain ⟨u, hu⟩ := step_next s
    obtain ⟨t, ht⟩ := ih u
    exact ⟨t, reaches_succ.mpr ⟨u, hu, ht⟩⟩

/-- A pass runs to its end with no transaction taken. Each of its steps but the last removes a byte. -/
theorem pass_ends {s : State} (ht : s.turns = []) (hp : s.phase ≠ .idle) :
    ∃ n t, n + t.buf.length ≤ s.buf.length + 1 ∧ Reaches n s t ∧ t.phase = .idle ∧ t.inputs = s.inputs ∧ t.turns = [] := by
  induction hlen : s.buf.length using Nat.strong_induction_on generalizing s with
  | _ len ih =>
    subst hlen
    obtain ⟨u, hu⟩ := passStep_next s.turnTaken
    have hstep : step s = .next u := (step_pass (.inl ht) hp).trans hu
    obtain ⟨k, new, eff, -, -, hprogress⟩ := passStep_effect hu
    have hinputs : u.inputs = s.inputs := eff.inputs
    have hturns : u.turns = [] := by rw [eff.turns, State.turnTaken_turns, ht, List.tail_nil]
    have hlen : u.buf.length = s.buf.length - k := by rw [eff.buf, List.length_drop, State.turnTaken_buf]
    have hk : k ≤ s.buf.length := eff.removed
    by_cases hidle : u.phase = .idle
    · exact ⟨1, u, by omega, reaches_succ.mpr ⟨u, hstep, reaches_zero.mpr rfl⟩, hidle, hinputs, hturns⟩
    · have := hprogress hidle
      obtain ⟨n, t, hn, hr, hend, hin, htu⟩ := ih u.buf.length (by omega) hturns hidle rfl
      exact ⟨n + 1, t, by omega, reaches_succ.mpr ⟨u, hstep, hr⟩, hend, hin.trans hinputs, htu⟩

/-- Settles O10: each step but the last removes a byte. -/
theorem everyPassStops : Obligations.EveryPassStops := by
  unfold Obligations.EveryPassStops
  intro s ht hp
  obtain ⟨n, t, hn, hr, hidle, hin, -⟩ := pass_ends ht hp
  exact ⟨n, t, by omega, hr, hidle, hin⟩

/-- Settles O20: the header at `BUF[0]` decodes to the same command on the longer buffer, and its bytes are the same. -/
theorem awaitedRecordIsNotRescanned : Obligations.AwaitedRecordIsNotRescanned := by
  unfold Obligations.AwaitedRecordIsNotRescanned
  intro s first more rest ins i ht hp hcap ho hd hi
  refine ⟨_, step_chunk_accepted (.inl ht) hp hi (not_ovfAfter_of_unbounded hcap ho _), rfl, rfl, rfl, ?_⟩
  obtain ⟨hl, -⟩ := decode_eq_instr.mp hd
  rw [step_decoded (.inl (by simp [ht])) (by simp) (decode_append (first :: more) hd)]
  simp only [parseHeader_append _ hl, ht, List.tail_nil]

/-! ### The resets, field by field (70_reset_and_hazards.md R144, R146) -/

theorem consumerOnFull_sameBlock (s : State) : SameBlock s s.consumerOnFull := by
  unfold State.consumerOnFull
  split <;> constructor <;> rfl

section
variable (s : State)

@[simp] theorem fullReset_cfg : s.fullReset.cfg = s.cfg := (consumerOnFull_sameBlock _).cfg
@[simp] theorem fullReset_buf : s.fullReset.buf = [] := (consumerOnFull_sameBlock _).buf
@[simp] theorem fullReset_pos : s.fullReset.pos = 0 := (consumerOnFull_sameBlock _).pos
@[simp] theorem fullReset_posBase : s.fullReset.posBase = 0 := (consumerOnFull_sameBlock _).posBase
@[simp] theorem fullReset_ingested : s.fullReset.ingested = 0 := (consumerOnFull_sameBlock _).ingested
@[simp] theorem fullReset_swap16 : s.fullReset.swap16 = s.cfg.swap16Reset := (consumerOnFull_sameBlock _).swap16
@[simp] theorem fullReset_infoSeq : s.fullReset.infoSeq = 0 := (consumerOnFull_sameBlock _).infoSeq
@[simp] theorem fullReset_out : s.fullReset.out = [] := (consumerOnFull_sameBlock _).out
@[simp] theorem fullReset_ovf : s.fullReset.ovf = false := (consumerOnFull_sameBlock _).ovf
@[simp] theorem fullReset_phase : s.fullReset.phase = .idle := (consumerOnFull_sameBlock _).phase
@[simp] theorem fullReset_inputs : s.fullReset.inputs = s.inputs := (consumerOnFull_sameBlock _).inputs
@[simp] theorem fullReset_turns : s.fullReset.turns = s.turns := (consumerOnFull_sameBlock _).turns

end

theorem fullReset_of_keep {s : State} (h : s.cfg.consumerOnFull = .keep) :
    s.fullReset.queue = s.queue ∧ s.fullReset.pendingInfo = s.pendingInfo ∧ s.fullReset.canvas = s.canvas ∧
      s.fullReset.shown = s.shown := by
  simp only [State.fullReset, State.consumerOnFull, h, and_self]

theorem fullReset_of_restart {s : State} (h : s.cfg.consumerOnFull = .restart) :
    s.fullReset.queue = [] ∧ s.fullReset.pendingInfo = [] ∧ s.fullReset.canvas = .uninitialized ∧ s.fullReset.shown = none := by
  simp only [State.fullReset, State.consumerOnFull, h, and_self]

/-! ### A transaction between passes -/

theorem length_buf_transact_le (x : Transaction) (s : State) : (transact x s).buf.length ≤ s.buf.length + x.size := by
  cases x with
  | chunk first rest =>
    simp only [transact, acceptChunk]
    split
    · exact Nat.le_add_right _ _
    · exact (List.length_append ..).le
  | ctrl v => exact Nat.le_refl _
  | rst kind =>
    cases kind with
    | full =>
      simp only [transact, resetBy, fullReset_buf]
      exact Nat.zero_le _
    | liveness => exact Nat.le_refl _
    | reconnect =>
      simp only [transact, resetBy, State.reconnect_buf]
      split
      · exact Nat.zero_le _
      · exact Nat.le_refl _

/-- One transaction: the step that takes it, and its pass when it begins one. -/
theorem transaction_ends {s : State} {x : Transaction} {ins : List Transaction} (ht : s.turns = []) (hp : s.phase = .idle)
    (hi : s.inputs = x :: ins) :
    ∃ n t, n + t.buf.length ≤ 2 + s.buf.length + x.size ∧ Reaches n s t ∧ t.phase = .idle ∧ t.inputs = ins ∧ t.turns = [] := by
  have hstep := step_takes (.inl ht) hp hi
  have hlen := length_buf_transact_le x { s with turns := s.turns.tail, inputs := ins }
  obtain ⟨hin, htu, -⟩ := transact_frame x { s with turns := s.turns.tail, inputs := ins }
  generalize transact x { s with turns := s.turns.tail, inputs := ins } = u at hstep hlen hin htu
  have htu : u.turns = [] := by rw [htu, ht, List.tail_nil]
  by_cases hidle : u.phase = .idle
  · exact ⟨1, u, by simp only at hlen; omega, reaches_succ.mpr ⟨u, hstep, reaches_zero.mpr rfl⟩, hidle, hin, htu⟩
  · obtain ⟨n, t, hn, hr, hend, htin, httu⟩ := pass_ends htu hidle
    exact ⟨n + 1, t, by simp only at hlen; omega, reaches_succ.mpr ⟨u, hstep, hr⟩, hend, htin.trans hin, httu⟩

theorem transactions_end (ts : List Transaction) {s : State} (ht : s.turns = []) (hp : s.phase = .idle) (hi : s.inputs = ts) :
    ∃ n t, n ≤ 2 * ts.length + s.buf.length + (ts.map Transaction.size).sum ∧
      Reaches n s t ∧ t.phase = .idle ∧ t.inputs = [] := by
  induction ts generalizing s with
  | nil => exact ⟨0, s, Nat.zero_le _, reaches_zero.mpr rfl, hp, hi⟩
  | cons x ts ih =>
    obtain ⟨m, u, hm, hru, hu, huin, hutu⟩ := transaction_ends ht hp hi
    obtain ⟨n, t, hn, hrt, hend, htin⟩ := ih hutu hu huin
    refine ⟨m + n, t, ?_, reaches_add hru hrt, hend, htin⟩
    rw [List.length_cons, List.map_cons, List.sum_cons]
    omega

/-- Settles O21, by induction on the transactions: each takes one step and at most one pass, whose steps but the last remove a byte. -/
theorem runOfTransactionsEnds : Obligations.RunOfTransactionsEnds := by
  unfold Obligations.RunOfTransactionsEnds
  intro s ts ht hp hi
  exact transactions_end ts (s := s.offered ts) ht hp (by rw [State.offered_inputs, hi, List.append_nil])

end Sys2Proof.Machine

namespace Sys2Proof.Machine

/-! ### The resets and the `ctrl` port, each in one step -/

/-- Settles O44: the step that takes the reset, field by field. -/
theorem fullResetClearsTheBlock : Obligations.FullResetClearsTheBlock := by
  unfold Obligations.FullResetClearsTheBlock
  intro s ins hb hp hi
  refine ⟨_, step_takes hb hp hi, fullReset_buf _, fullReset_pos _, fullReset_swap16 _, fullReset_infoSeq _, fullReset_out _,
    fullReset_ovf _, fullReset_posBase _, fullReset_ingested _, fullReset_phase _, fullReset_cfg _, fullReset_inputs _,
    fullReset_turns _, fun h => fullReset_of_keep h, fun h => fullReset_of_restart h⟩

/-- Settles O45: the step that takes the reset takes nothing else. -/
theorem livenessResetChangesNothing : Obligations.LivenessResetChangesNothing := by
  unfold Obligations.LivenessResetChangesNothing
  exact fun s ins hb hp hi => step_takes hb hp hi

/-- Settles O42: the step that takes the write. -/
theorem ctrlWritesOnlySwap16 : Obligations.CtrlWritesOnlySwap16 := by
  unfold Obligations.CtrlWritesOnlySwap16
  exact fun s v ins hb hp hi => step_takes hb hp hi

theorem reconnect_of_keeps {s : State} (h : s.cfg.reconnectClearsBuffer = false) : s.reconnect = { s with queue := [] } := by
  simp [State.reconnect, h]

theorem reconnect_of_clears {s : State} (h : s.cfg.reconnectClearsBuffer = true) :
    s.reconnect = { s with
      queue := [], buf := [], pos := posAfterClear s.cfg.posOnClear s.pos,
      posBase := posAfterClear s.cfg.posOnClear s.pos, ingested := 0 } := by
  simp [State.reconnect, h, State.clearBuf]

/-- Settles O46: the two branches of a RECONNECT, and the two readings of `POS` in the one that empties `BUF`. -/
theorem reconnectKeepsTheBlock : Obligations.ReconnectKeepsTheBlock := by
  unfold Obligations.ReconnectKeepsTheBlock
  intro s ins hb hp hi
  rw [step_takes hb hp hi]
  simp only [transact, resetBy]
  refine ⟨fun hc => ?keeps, fun hc hpos => ?clearsKeepsPos, fun hc hpos => ?clearsRestartsPos⟩
  case keeps => exact congrArg _ (reconnect_of_keeps hc)
  case clearsKeepsPos =>
    rw [reconnect_of_clears (by exact hc)]
    simp only [hpos, posAfterClear]
  case clearsRestartsPos =>
    rw [reconnect_of_clears (by exact hc)]
    simp only [hpos, posAfterClear]

/-! ### What a step does to each element of the block -/

/-- Everything a step can do to the block: nothing, or an iteration of the pass, or the transaction it takes. -/
theorem step_block_cases {s t : State} (h : step s = .next t) :
    SameBlock s.turnTaken t ∨
    (BlockTurn s ∧ s.phase ≠ .idle ∧ passStep s.turnTaken = .next t) ∨
    ∃ x ins, BlockTurn s ∧ s.phase = .idle ∧ s.inputs = x :: ins ∧ t = transact x { s.turnTaken with inputs := ins } := by
  rcases step_cases h with ⟨hb, hp, rfl⟩ | hpass | ⟨-, rfl⟩ | ⟨-, rfl⟩
  · rcases takeInput_cases s.turnTaken with ⟨-, e⟩ | ⟨x, ins, hi, e⟩
    · rw [e]
      exact .inl (by constructor <;> rfl)
    · exact .inr (.inr ⟨x, ins, hb, hp, hi, e⟩)
  · exact .inr (.inl hpass)
  · exact .inl (tick_sameBlock _)
  · exact .inl (loseConnection_sameBlock _)

/-- The bytes of `BUF` after the first `k` are kept, and `POS` counts those `k`. -/
theorem removed_front {s t : State} {k : Nat} (hk : k ≤ s.buf.length) (hbuf : t.buf = s.buf.drop k) (hpos : t.pos = s.pos + k)
    (hin : t.ingested = s.ingested) :
    ∃ k, k ≤ s.buf.length ∧ t.buf = s.buf.drop k ∧ t.pos = s.pos + k ∧ t.ingested = s.ingested ∧
      ∀ i, byteAt t.buf i = byteAt s.buf (k + i) :=
  ⟨k, hk, hbuf, hpos, hin, fun i => by rw [hbuf, byteAt_drop]⟩

/-- A transaction leaves `BUF` and its counts alone, unless it is a chunk that is accepted, a FULL reset, or a RECONNECT that
empties `BUF`. -/
theorem transact_buf (x : Transaction) (s : State) :
    ((transact x s).buf = s.buf ∧ (transact x s).pos = s.pos ∧ (transact x s).ingested = s.ingested) ∨
    (∃ first rest, x = .chunk first rest ∧ (transact x s).buf = s.buf ++ first :: rest ∧ (transact x s).pos = s.pos ∧
      (transact x s).ingested = s.ingested + (rest.length + 1)) ∨
    (x = .rst .full ∧ (transact x s).buf = [] ∧ (transact x s).pos = 0 ∧ (transact x s).ingested = 0) ∨
    (x = .rst .reconnect ∧ s.cfg.reconnectClearsBuffer = true ∧ (transact x s).buf = [] ∧ (transact x s).ingested = 0 ∧
      (transact x s).pos = posAfterClear s.cfg.posOnClear s.pos) := by
  cases x with
  | chunk first rest =>
    simp only [transact, acceptChunk]
    split
    · exact .inl ⟨rfl, rfl, rfl⟩
    · exact .inr (.inl ⟨first, rest, rfl, rfl, rfl, rfl⟩)
  | ctrl v => exact .inl ⟨rfl, rfl, rfl⟩
  | rst kind =>
    cases kind with
    | full => exact .inr (.inr (.inl ⟨rfl, fullReset_buf s, fullReset_pos s, fullReset_ingested s⟩))
    | liveness => exact .inl ⟨rfl, rfl, rfl⟩
    | reconnect =>
      have htake : transact (.rst .reconnect) s = s.reconnect := rfl
      rw [htake]
      cases hc : s.cfg.reconnectClearsBuffer with
      | false =>
        rw [reconnect_of_keeps hc]
        exact .inl ⟨rfl, rfl, rfl⟩
      | true =>
        rw [reconnect_of_clears hc]
        exact .inr (.inr (.inr ⟨rfl, rfl, rfl, rfl, rfl⟩))

/-- Settles O14: the pass removes at the front, and a transaction appends its chunk, empties `BUF`, or leaves it alone. -/
theorem bufferGrowsAtTheBackAndShrinksAtTheFront : Obligations.BufferGrowsAtTheBackAndShrinksAtTheFront := by
  unfold Obligations.BufferGrowsAtTheBackAndShrinksAtTheFront
  intro s t h
  rcases step_block_cases h with same | ⟨-, -, hpass⟩ | ⟨x, ins, -, hp, hi, rfl⟩
  · exact .inl (removed_front (Nat.zero_le _) same.buf same.pos same.ingested)
  · obtain ⟨k, new, eff, -⟩ := passStep_effect hpass
    exact .inl (removed_front eff.removed eff.buf eff.pos eff.ingested)
  · have hhead : s.inputs.head? = some x := by rw [hi, List.head?_cons]
    rcases transact_buf x { s.turnTaken with inputs := ins } with ⟨hbuf, hpos, hin⟩ | ⟨first, rest, rfl, hchunk⟩ |
      ⟨rfl, hfull⟩ | ⟨rfl, hc, hbuf, hin, hpos⟩
    · exact .inl (removed_front (Nat.zero_le _) hbuf hpos hin)
    · exact .inr (.inl ⟨first, rest, hp, hhead, hchunk⟩)
    · exact .inr (.inr (.inl ⟨hp, hhead, hfull⟩))
    · refine .inr (.inr (.inr ⟨hp, hhead, hc, hbuf, hin, fun hkeep => ?_, fun hrestart => ?_⟩))
      · rw [hpos, State.turnTaken_cfg, hkeep, posAfterClear, State.turnTaken_pos]
      · rw [hpos, State.turnTaken_cfg, hrestart, posAfterClear]

/-- A transaction other than a FULL reset appends nothing to `OUT`, or the report of its refused chunk. -/
theorem transact_out (x : Transaction) (s : State) :
    (transact x s).out = s.out ∨ (∃ n, (transact x s).out = s.out ++ [.diag .overflow n]) ∨
    (x = .rst .full ∧ (transact x s).out = []) := by
  cases x with
  | chunk first rest =>
    simp only [transact, acceptChunk]
    split
    · exact .inr (.inl ⟨_, rfl⟩)
    · exact .inl rfl
  | ctrl v => exact .inl rfl
  | rst kind =>
    cases kind with
    | full => exact .inr (.inr ⟨rfl, fullReset_out s⟩)
    | liveness => exact .inl rfl
    | reconnect => exact .inl (State.reconnect_out s)

/-- Settles O15: an iteration of the pass emits at most two events, of which at most one is for the port, a transaction at most the
report of a refused chunk. -/
theorem outOnlyAppends : Obligations.OutOnlyAppends := by
  unfold Obligations.OutOnlyAppends
  intro s t h
  have nothing (ht : t.out = s.out) : ∃ new, t.out = s.out ++ new ∧ new.length ≤ 2 ∧ (outPort new).length ≤ 1 :=
    ⟨[], by rw [ht, List.append_nil], by simp, by simp [outPort]⟩
  rcases step_block_cases h with same | ⟨-, -, hpass⟩ | ⟨x, ins, -, hp, hi, rfl⟩
  · exact .inl (nothing same.out)
  · obtain ⟨k, new, eff, htwo, hone, -⟩ := passStep_effect hpass
    exact .inl ⟨new, eff.out, htwo, hone⟩
  · rcases transact_out x { s.turnTaken with inputs := ins } with e | ⟨n, e⟩ | ⟨rfl, e⟩
    · exact .inl (nothing e)
    · exact .inl ⟨_, e, by simp, by simp [outPort, Event.onOut]⟩
    · exact .inr ⟨hp, by rw [hi, List.head?_cons], e⟩

/-- A turn of the consumer leaves the block as it is. -/
theorem sameBlock_of_consumerTurn {s t : State} (hb : ¬BlockTurn s) (h : step s = .next t) : SameBlock s.turnTaken t := by
  rcases step_cases h with ⟨hb', -⟩ | ⟨hb', -⟩ | ⟨-, rfl⟩ | ⟨-, rfl⟩
  · exact absurd hb' hb
  · exact absurd hb' hb
  · exact tick_sameBlock _
  · exact loseConnection_sameBlock _

/-- Settles O16: neither the pass nor the consumer touches the list of transactions, and no transaction touches those behind it. -/
theorem transactionsWaitForThePass : Obligations.TransactionsWaitForThePass := by
  unfold Obligations.TransactionsWaitForThePass
  intro s t h
  refine ⟨fun hwait => ?waits, fun hp hb => ?takes⟩
  case waits =>
    by_cases hb : BlockTurn s
    · have hp : s.phase ≠ .idle := hwait.resolve_right (not_not_intro hb)
      rw [step_pass hb hp] at h
      obtain ⟨k, new, eff, -⟩ := passStep_effect h
      exact eff.inputs
    · exact (sameBlock_of_consumerTurn hb h).inputs
  case takes =>
    rw [step_idle hb hp] at h
    cases h
    rcases takeInput_cases s.turnTaken with ⟨hi, e⟩ | ⟨x, ins, hi, e⟩
    · rw [e, hi, show s.inputs = [] from hi, List.tail_nil]
    · rw [e, (transact_frame x _).1, show s.inputs = x :: ins from hi, List.tail_cons]

/-- A transaction sets `OVF` only when it is a chunk that is refused, and clears it only when it is a FULL reset. -/
theorem transact_ovf (x : Transaction) (s : State) :
    (transact x s).ovf = s.ovf ∨
    (∃ first rest, x = .chunk first rest ∧ ovfAfter s (rest.length + 1) = true ∧ (transact x s).buf = s.buf ∧
      (transact x s).ovf = true) ∨
    (x = .rst .full ∧ (transact x s).ovf = false) := by
  cases x with
  | chunk first rest =>
    simp only [transact, acceptChunk]
    split
    · exact .inr (.inl ⟨first, rest, rfl, ‹_›, rfl, rfl⟩)
    · exact .inl rfl
  | ctrl v => exact .inl rfl
  | rst kind =>
    cases kind with
    | full => exact .inr (.inr ⟨rfl, fullReset_ovf s⟩)
    | liveness => exact .inl rfl
    | reconnect => exact .inl (State.reconnect_ovf s)

/-- Settles O41: neither the pass nor the consumer touches `OVF`, and of the transactions only a refused chunk and a FULL reset do. -/
theorem ovfIsStickyUntilFullReset : Obligations.OvfIsStickyUntilFullReset := by
  unfold Obligations.OvfIsStickyUntilFullReset
  intro s t h
  have unchanged {P Q : Prop} (e : t.ovf = s.ovf) : (s.ovf = true → t.ovf = false → P) ∧ (s.ovf = false → t.ovf = true → Q) := by
    rw [e]
    exact ⟨fun h1 h0 => absurd (h0.symm.trans h1) Bool.false_ne_true, fun h0 h1 => absurd (h0.symm.trans h1) Bool.false_ne_true⟩
  rcases step_block_cases h with same | ⟨-, -, hpass⟩ | ⟨x, ins, -, hp, hi, rfl⟩
  · exact unchanged same.ovf
  · obtain ⟨k, new, eff, -⟩ := passStep_effect hpass
    exact unchanged eff.ovf
  · rcases transact_ovf x { s.turnTaken with inputs := ins } with e | ⟨first, rest, rfl, hover, hbuf, hset⟩ | ⟨rfl, hclear⟩
    · exact unchanged e
    · refine ⟨fun _ h0 => absurd (h0.symm.trans hset) Bool.false_ne_true, fun h0 _ => ?_⟩
      rcases ovfAfter_iff.mp hover with h1 | ⟨cap, hc, hlt⟩
      · exact absurd (h0.symm.trans h1) Bool.false_ne_true
      · exact ⟨cap, first, rest, hc, by rw [hi, List.head?_cons], hlt, hbuf⟩
    · exact ⟨fun _ _ => ⟨hp, by rw [hi, List.head?_cons]⟩, fun _ h1 => absurd (hclear.symm.trans h1) Bool.false_ne_true⟩

/-- A transaction changes `SWAP16` only when it is a `ctrl` write or a FULL reset. -/
theorem transact_swap16 (x : Transaction) (s : State) :
    (transact x s).swap16 = s.swap16 ∨ x = .ctrl (transact x s).swap16 ∨
    (x = .rst .full ∧ (transact x s).swap16 = s.cfg.swap16Reset) := by
  cases x with
  | chunk first rest =>
    left
    simp only [transact, acceptChunk]
    split <;> rfl
  | ctrl v => exact .inr (.inl rfl)
  | rst kind =>
    cases kind with
    | full => exact .inr (.inr ⟨rfl, fullReset_swap16 s⟩)
    | liveness => exact .inl rfl
    | reconnect => exact .inl (State.reconnect_swap16 s)

/-- Settles O43: neither the pass nor the consumer touches a parameter or `SWAP16`. -/
theorem streamChangesNoConfiguration : Obligations.StreamChangesNoConfiguration := by
  unfold Obligations.StreamChangesNoConfiguration
  intro s t h
  rcases step_block_cases h with same | ⟨-, -, hpass⟩ | ⟨x, ins, -, hp, hi, rfl⟩
  · exact ⟨same.cfg, fun hne => absurd same.swap16 hne⟩
  · obtain ⟨k, new, eff, -⟩ := passStep_effect hpass
    exact ⟨eff.cfg, fun hne => absurd eff.swap16 hne⟩
  · obtain ⟨-, -, hcfg⟩ := transact_frame x { s.turnTaken with inputs := ins }
    refine ⟨hcfg, fun hne => ⟨hp, ?_⟩⟩
    rw [hi, List.head?_cons]
    rcases transact_swap16 x { s.turnTaken with inputs := ins } with e | e | ⟨rfl, e⟩
    · exact absurd e hne
    · exact .inl (congrArg some e)
    · exact .inr ⟨rfl, e⟩

/-- A transaction touches the canvas and the presented one only when it is a FULL reset that restarts the consumer. -/
theorem transact_canvas (x : Transaction) (s : State) :
    ((transact x s).canvas = s.canvas ∧ (transact x s).shown = s.shown) ∨ (x = .rst .full ∧ s.cfg.consumerOnFull = .restart) := by
  cases x with
  | chunk first rest =>
    left
    simp only [transact, acceptChunk]
    split <;> exact ⟨rfl, rfl⟩
  | ctrl v => exact .inl ⟨rfl, rfl⟩
  | rst kind =>
    cases kind with
    | full =>
      cases hc : s.cfg.consumerOnFull with
      | keep =>
        obtain ⟨-, -, hcanvas, hshown⟩ := fullReset_of_keep hc
        exact .inl ⟨hcanvas, hshown⟩
      | restart => exact .inr ⟨rfl, rfl⟩
    | liveness => exact .inl ⟨rfl, rfl⟩
    | reconnect => exact .inl ⟨State.reconnect_canvas s, State.reconnect_shown s⟩

/-- Settles O57: neither the pass nor a transaction but a FULL reset touches the canvas. -/
theorem onlyTheConsumerWritesTheCanvas : Obligations.OnlyTheConsumerWritesTheCanvas := by
  unfold Obligations.OnlyTheConsumerWritesTheCanvas
  intro s t h hb hchanged
  by_cases hp : s.phase = .idle
  · rw [step_idle hb hp] at h
    cases h
    rcases takeInput_cases s.turnTaken with ⟨-, e⟩ | ⟨x, ins, hi, e⟩
    · rw [e] at hchanged
      exact absurd hchanged (by simp)
    · rw [e] at hchanged
      rcases transact_canvas x { s.turnTaken with inputs := ins } with ⟨hcanvas, hshown⟩ | ⟨rfl, hc⟩
      · exact absurd hchanged (not_or.mpr ⟨not_not_intro hcanvas, not_not_intro hshown⟩)
      · exact ⟨hp, by rw [show s.inputs = _ from hi, List.head?_cons], hc⟩
  · rw [step_pass hb hp] at h
    obtain ⟨k, new, eff, -⟩ := passStep_effect h
    exact absurd hchanged (not_or.mpr ⟨not_not_intro eff.canvas, not_not_intro eff.shown⟩)

/-! ### The consumer's turns (48_downstream.md R113, R121) -/

/-- Settles O52: the tick as two folds. -/
theorem tickAppliesInfosThenRegions : Obligations.TickAppliesInfosThenRegions := by
  unfold Obligations.TickAppliesInfosThenRegions
  intro s h
  rw [step_tick h, tick_eq]
  rfl

/-- Settles O58: a blank canvas lists no pixel, so each reads (0,0,0). -/
theorem lossOfConnectionRetainsOrBlanks : Obligations.LossOfConnectionRetainsOrBlanks := by
  unfold Obligations.LossOfConnectionRetainsOrBlanks
  intro s h
  rw [step_connectionLost h]
  refine ⟨fun hretain => ?retain, fun hblank => ⟨blankCanvas s.canvas, ?blank, fun hc => ?none, fun f hc => ?sized⟩⟩
  case retain => simp only [loseConnection, State.turnTaken_cfg, hretain]; rfl
  case blank => simp only [loseConnection, State.turnTaken_cfg, hblank]; rfl
  case none => rw [hc, blankCanvas]
  case sized => exact ⟨{ f with pixels := [] }, by rw [hc, blankCanvas], rfl, rfl, rfl, rfl, fun _ _ => rfl⟩

end Sys2Proof.Machine

namespace Sys2Proof.Machine

/-! ### INFO and UNKNOWN (40_framer.md R67, R72) -/

/-- Settles O22: the command's next state, computed. -/
theorem infoEmitsItsRawFields : Obligations.InfoEmitsItsRawFields := by
  unfold Obligations.InfoEmitsItsRawFields
  exact fun s x1 y1 x2 y2 n => rfl

/-- Settles O31: the command's next state, computed. -/
theorem unknownDiscardsOneByte : Obligations.UnknownDiscardsOneByte := by
  unfold Obligations.UnknownDiscardsOneByte
  exact fun s cmd => rfl

/-! ### What the decoder answers (41_decoder.md R80 to R98) -/

/-- RLE16 has no pixels (41_decoder.md R95). -/
theorem fmt_ne_rle16_of_pixels {c : Config} {w : Bool} {rec : Record} {l : List RGB888} (h : unpackRecord c w rec = .pixels l) :
    rec.fmt ≠ .rle16 := by
  intro hf
  simp only [unpackRecord, hf, decodeRle16] at h
  cases h

/-- A Region of the decoder is that of the record's rectangle, with all its pixels. -/
theorem decodeRecord_region {c : Config} {w : Bool} {rec : Record} {r : Region} (h : decodeRecord c w rec = .region r) :
    rec.x1.toNat ≤ rec.x2.toNat ∧ rec.y1.toNat ≤ rec.y2.toNat ∧
      ∃ l, unpackRecord c w rec = .pixels l ∧ l.length = extent rec.x1 rec.x2 * extent rec.y1 rec.y2 ∧
        r = ⟨rec.fmt, rec.x1, rec.y1, extent rec.x1 rec.x2, extent rec.y1 rec.y2, l, rec.seq⟩ := by
  rcases decodeRecord_cases c w rec with ⟨-, e⟩ | ⟨hb, ⟨code, -, e⟩ | ⟨l, hu, hl, e⟩⟩
  · rw [e] at h
    cases h
  · rw [e] at h
    cases h
  · rw [e] at h
    cases h
    obtain ⟨hx, hy⟩ := badRect_eq_false.mp hb
    exact ⟨hx, hy, l, hu, hl, rfl⟩

/-- With a rectangle and all its pixels unpacked the decoder answers their Region. -/
theorem decodeRecord_of_pixels {c : Config} {w : Bool} {rec : Record} {l : List RGB888} (hx : rec.x1.toNat ≤ rec.x2.toNat)
    (hy : rec.y1.toNat ≤ rec.y2.toNat) (hu : unpackRecord c w rec = .pixels l) :
    decodeRecord c w rec = .region ⟨rec.fmt, rec.x1, rec.y1, extent rec.x1 rec.x2, extent rec.y1 rec.y2, l, rec.seq⟩ := by
  simp [decodeRecord, badRect_eq_false.mpr ⟨hx, hy⟩, hu]

theorem one_le_extent (lo hi : U16) : 1 ≤ extent lo hi := Nat.le_add_left _ _

theorem extent_le (lo hi : U16) : extent lo hi ≤ 65536 := by
  have := hi.isLt
  unfold extent
  omega

/-- Settles O32: the two coordinates of a side are u16, so it has 1 to 65536 pixels. -/
theorem decodedRegionHasAllItsPixels : Obligations.DecodedRegionHasAllItsPixels := by
  unfold Obligations.DecodedRegionHasAllItsPixels
  intro c swap16 rec r h
  obtain ⟨hx, hy, l, hu, hl, rfl⟩ := decodeRecord_region h
  exact ⟨hx, hy, fmt_ne_rle16_of_pixels hu, rfl, rfl, rfl, rfl, rfl, rfl, one_le_extent _ _, extent_le _ _, one_le_extent _ _,
    extent_le _ _, hl⟩

/-- Settles O38: both arms unpack the same RGB332 bytes, and neither is short, odd or long; the RLE8 and RAW8 arms do not read
`SWAP16`. -/
theorem rleRegionEqualsRawRegionOfItsRuns : Obligations.RleRegionEqualsRawRegionOfItsRuns := by
  unfold Obligations.RleRegionEqualsRawRegionOfItsRuns
  intro c w w' rec n' total' hfmt hx hy hlen heven hruns hn'
  have hruns : (runs rec.payload).length = extent rec.x1 rec.x2 * extent rec.y1 rec.y2 := hruns
  have hrle : unpackRecord c w rec = .pixels (unpack8 c.div332 (extent rec.x1 rec.x2 * extent rec.y1 rec.y2) (runs rec.payload)) := by
    simp [unpackRecord, hfmt, decodeRle8, heven, hruns]
  have hraw : unpackRecord c w' { rec with fmt := .raw8, dataLen := n', payload := runs rec.payload, total := total' } =
      .pixels (unpack8 c.div332 (extent rec.x1 rec.x2 * extent rec.y1 rec.y2) (runs rec.payload)) := by
    simp [unpackRecord, decodeRaw8, hn', hruns]
  exact ⟨_, decodeRecord_of_pixels hx hy hrle, decodeRecord_of_pixels hx hy hraw⟩

/-! ### The FRAME commands (40_framer.md R63 to R66) -/

/-- Settles O23: step E of 40_framer.md R58 for every format. -/
theorem frameWaitsForItsTotalBytes : Obligations.FrameWaitsForItsTotalBytes := by
  unfold Obligations.FrameWaitsForItsTotalBytes
  intro s fmt x1 y1 x2 y2 n hw
  rw [exec_instr, runFrame_waits hw]
  exact ⟨_, rfl⟩

section
variable {s : State} {fmt : Fmt} {x1 y1 x2 y2 : U16} {n : U32}

/-- A Region comes from a decode that answers it: a framing error is a Diag. -/
theorem decodeRecord_of_frameEvent {c : Config} {w : Bool} {rec : Record} {endm : U32} {r : Region}
    (h : frameEvent c w rec endm = .region r) : decodeRecord c w rec = .region r := by
  unfold frameEvent decodeEvent at h
  split_ifs at h
  split at h
  · cases h
    assumption
  · cases h

theorem frameEvent_badEnd (he : le32At s.buf (17 + n.toNat) ≠ s.cfg.endMarker) :
    frameEvent s.cfg s.swap16 (s.frameRecord fmt x1 y1 x2 y2 n) (s.frameEnd n) = .diag .badEnd (17 + n.toNat + 4) := if_pos he

theorem frameEvent_zeroLen (he : le32At s.buf (17 + n.toNat) = s.cfg.endMarker) (hn : n = 0) :
    frameEvent s.cfg s.swap16 (s.frameRecord fmt x1 y1 x2 y2 n) (s.frameEnd n) = .diag .zeroLen (17 + n.toNat + 4) :=
  (if_neg (not_not_intro he)).trans (if_pos hn)

end

/-- Settles O24: the one event is a Diag with the record's `total` or the Region of its decode. -/
theorem wholeFrameIsConsumedWithOneEvent : Obligations.WholeFrameIsConsumedWithOneEvent := by
  unfold Obligations.WholeFrameIsConsumedWithOneEvent
  intro s fmt x1 y1 x2 y2 n hwhole
  rcases frameEvent_cases s.cfg s.swap16 (s.frameRecord fmt x1 y1 x2 y2 n) (s.frameEnd n) with ⟨code, he⟩ | ⟨r, he, -, -⟩
  · exact .inl ⟨code, exec_whole fmt x1 y1 x2 y2 hwhole he⟩
  · obtain ⟨-, -, l, -, -, rfl⟩ := decodeRecord_region (decodeRecord_of_frameEvent he)
    exact .inr ⟨_, exec_whole fmt x1 y1 x2 y2 hwhole he, rfl, rfl, rfl, rfl⟩

/-- Settles O25: the end marker is tested before the length. -/
theorem endMarkerThenZeroLength : Obligations.EndMarkerThenZeroLength := by
  unfold Obligations.EndMarkerThenZeroLength
  intro s fmt x1 y1 x2 y2 n hwhole
  exact ⟨fun he => exec_whole fmt x1 y1 x2 y2 hwhole (frameEvent_badEnd he),
    fun he hn => exec_whole fmt x1 y1 x2 y2 hwhole (frameEvent_zeroLen he hn)⟩

/-- Settles O26: a record without a rectangle reaches no arm. -/
theorem badRectangleIsDropped : Obligations.BadRectangleIsDropped := by
  unfold Obligations.BadRectangleIsDropped
  intro s fmt x1 y1 x2 y2 n hwhole he hn hb
  exact exec_whole fmt x1 y1 x2 y2 hwhole (frameEvent_badRect he hn hb)

section
variable {s : State} {x1 y1 x2 y2 : U16} {n : U32}

/-- A whole, validated record whose arm unpacks all the pixels of its rectangle (41_decoder.md R97). -/
theorem exec_pixels (fmt : Fmt) (hwhole : 17 + n.toNat + 4 ≤ s.buf.length) (he : le32At s.buf (17 + n.toNat) = s.cfg.endMarker)
    (hn : 0 < n.toNat) (hx : x1.toNat ≤ x2.toNat) (hy : y1.toNat ≤ y2.toNat) {l : List RGB888}
    (hu : unpackRecord s.cfg s.swap16 (s.frameRecord fmt x1 y1 x2 y2 n) = .pixels l) :
    exec (fmt.instr x1 y1 x2 y2 n) s = .next { s with
      buf := s.buf.drop (17 + n.toNat + 4), pos := s.pos + (17 + n.toNat + 4), phase := .atL,
      out := s.out ++ [.region ⟨fmt, x1, y1, x2.toNat - x1.toNat + 1, y2.toNat - y1.toNat + 1, l, s.infoSeq⟩],
      queue := pushRegion s.cfg.qcap s.queue ⟨fmt, x1, y1, x2.toNat - x1.toNat + 1, y2.toNat - y1.toNat + 1, l, s.infoSeq⟩ } := by
  have hev := frameEvent_rect (fmt := fmt) he hn hx hy
  rw [hu] at hev
  exact exec_whole fmt x1 y1 x2 y2 hwhole hev

/-- A whole, validated record with a rectangle whose arm answers a code (41_decoder.md R98). -/
theorem exec_drop (fmt : Fmt) (hwhole : 17 + n.toNat + 4 ≤ s.buf.length) (he : le32At s.buf (17 + n.toNat) = s.cfg.endMarker)
    (hn : 0 < n.toNat) (hx : x1.toNat ≤ x2.toNat) (hy : y1.toNat ≤ y2.toNat) {code : DiagCode}
    (hu : unpackRecord s.cfg s.swap16 (s.frameRecord fmt x1 y1 x2 y2 n) = .drop code) :
    exec (fmt.instr x1 y1 x2 y2 n) s = .next { s with
      buf := s.buf.drop (17 + n.toNat + 4), pos := s.pos + (17 + n.toNat + 4), phase := .atL,
      out := s.out ++ [.diag code (17 + n.toNat + 4)] } := by
  have hev := frameEvent_rect (fmt := fmt) he hn hx hy
  rw [hu] at hev
  exact exec_whole fmt x1 y1 x2 y2 hwhole hev

end

theorem toNat_be16At (b : List Byte) (i : Nat) : (be16At b i).toNat = 256 * (byteAt b i).toNat + (byteAt b (i + 1)).toNat :=
  toNat_be16 ..

/-- Raw pixel `i` of a record at `BUF[0]`, as a number (30_encoding.md R47). -/
theorem toNat_rawWord_payload {b : List Byte} {n i : Nat} (w : Bool) (h : 2 * i + 1 < n) :
    (rawWord w ((b.drop headerSize).take n) i).toNat =
      if w then 256 * (byteAt b (17 + 2 * i)).toNat + (byteAt b (17 + (2 * i + 1))).toNat
      else (byteAt b (17 + 2 * i)).toNat + 256 * (byteAt b (17 + (2 * i + 1))).toNat := by
  cases w with
  | false => simp [rawWord, toNat_le16At, byteAt_payload h, byteAt_payload (Nat.lt_of_succ_lt h)]
  | true => simp [rawWord, toNat_be16At, byteAt_payload h, byteAt_payload (Nat.lt_of_succ_lt h)]

/-- Settles O27: with enough bytes every pixel's two payload bytes lie in the record. -/
theorem raw16DecodesItsPixels : Obligations.Raw16DecodesItsPixels := by
  unfold Obligations.Raw16DecodesItsPixels
  intro s x1 y1 x2 y2 n hwhole he hn hx hy
  refine ⟨fun henough => ⟨_, exec_pixels .raw16 hwhole he hn hx hy (if_neg (Nat.not_lt.mpr henough)), length_unpack16 .., ?pixels⟩,
    fun hshort => exec_drop .raw16 hwhole he hn hx hy (if_pos hshort)⟩
  case pixels =>
    intro i hi
    rw [length_unpack16] at hi
    refine ⟨_, getElem?_unpack16 hi, toNat_rawWord_payload s.swap16 ?_⟩
    have : i < (x2.toNat - x1.toNat + 1) * (y2.toNat - y1.toNat + 1) := hi
    change 2 * i + 1 < n.toNat
    omega

/-- Settles O28: with enough bytes every pixel's payload byte lies in the record. -/
theorem raw8DecodesItsPixels : Obligations.Raw8DecodesItsPixels := by
  unfold Obligations.Raw8DecodesItsPixels
  intro s x1 y1 x2 y2 n hwhole he hn hx hy
  refine ⟨fun henough => ⟨_, exec_pixels .raw8 hwhole he hn hx hy (if_neg (Nat.not_lt.mpr henough)), length_unpack8 .., ?pixels⟩,
    fun hshort => exec_drop .raw8 hwhole he hn hx hy (if_pos hshort)⟩
  case pixels =>
    intro i hi
    rw [length_unpack8] at hi
    rw [getElem?_unpack8 hi]
    exact congrArg (fun b => some (expand332 s.cfg.div332 b)) (byteAt_payload (Nat.lt_of_lt_of_le hi henough))

/-! ### The RLE8 arm, one equation per outcome (41_decoder.md R91 to R94) -/

section
variable {c : Config} {px n : Nat} {p : List Byte}

theorem decodeRle8_odd (hodd : n % 2 = 1) (hc : c.rleOddTail = .fail) : decodeRle8 c px n p = .drop .decRleOdd := if_pos ⟨hodd, hc⟩

/-- An odd tail that does not fail is no matter. -/
theorem decodeRle8_tail (htail : n % 2 = 0 ∨ c.rleOddTail = .ignore) :
    decodeRle8 c px n p =
      if (runs p).length < px then .drop .decRleShort
      else if px < (runs p).length ∧ c.rleOverrun = .fail then .drop .decRleLong
      else .pixels (unpack8 c.div332 px (runs p)) := by
  rw [decodeRle8, if_neg]
  rintro ⟨hodd, hc⟩
  rcases htail with heven | hignore
  · omega
  · cases hc.symm.trans hignore

theorem decodeRle8_short (htail : n % 2 = 0 ∨ c.rleOddTail = .ignore) (hshort : (runs p).length < px) :
    decodeRle8 c px n p = .drop .decRleShort := by
  rw [decodeRle8_tail htail, if_pos hshort]

theorem decodeRle8_long (htail : n % 2 = 0 ∨ c.rleOddTail = .ignore) (hlong : px < (runs p).length) (hc : c.rleOverrun = .fail) :
    decodeRle8 c px n p = .drop .decRleLong := by
  rw [decodeRle8_tail htail, if_neg (Nat.lt_asymm hlong), if_pos ⟨hlong, hc⟩]

theorem decodeRle8_enough (htail : n % 2 = 0 ∨ c.rleOddTail = .ignore)
    (henough : px = (runs p).length ∨ (px < (runs p).length ∧ c.rleOverrun = .truncate)) :
    decodeRle8 c px n p = .pixels (unpack8 c.div332 px (runs p)) := by
  rw [decodeRle8_tail htail, if_neg (by omega), if_neg]
  rintro ⟨hlong, hc⟩
  rcases henough with heq | ⟨-, htruncate⟩
  · omega
  · cases hc.symm.trans htruncate

end

/-- Settles O29, one case per outcome of the RLE8 arm. -/
theorem rle8ExpandsItsRuns : Obligations.Rle8ExpandsItsRuns := by
  unfold Obligations.Rle8ExpandsItsRuns
  intro s x1 y1 x2 y2 n S hwhole he hn hx hy hS
  subst hS
  refine ⟨fun hodd hc => exec_drop .rle8 hwhole he hn hx hy (decodeRle8_odd hodd hc), fun htail => ⟨?short, ?long, ?enough⟩⟩
  case short => exact fun hshort => exec_drop .rle8 hwhole he hn hx hy (decodeRle8_short htail hshort)
  case long => exact fun hlong hc => exec_drop .rle8 hwhole he hn hx hy (decodeRle8_long htail hlong hc)
  case enough =>
    refine fun henough => ⟨_, exec_pixels .rle8 hwhole he hn hx hy (decodeRle8_enough htail henough), length_unpack8 .., ?_⟩
    intro i hi
    rw [length_unpack8] at hi
    exact getElem?_unpack8 hi

/-! ### The expansions in numbers (41_decoder.md R83 to R85) -/

/-- The low `m` bits of a word, as a number. -/
theorem toNat_lowBits {w : Nat} (v mask : BitVec w) (m : Nat) (hmask : mask.toNat = 2 ^ m - 1) :
    (v &&& mask).toNat = v.toNat % 2 ^ m := by
  rw [BitVec.toNat_and, hmask, Nat.and_two_pow_sub_one_eq_mod]

/-- The `m` bits of a word from bit `k` on, as a number. -/
theorem toNat_bits {w : Nat} (v mask : BitVec w) (k m : Nat) (hmask : mask.toNat = 2 ^ m - 1) :
    ((v >>> k) &&& mask).toNat = v.toNat / 2 ^ k % 2 ^ m := by
  rw [toNat_lowBits _ _ m hmask, BitVec.toNat_ushiftRight, Nat.shiftRight_eq_div_pow]

/-- A channel moved up by `up` bits with its own top bits below, as a number. -/
theorem toNat_replicateTop (x : U16) (up down : Nat) (hlow : x.toNat / 2 ^ down < 2 ^ up)
    (hfits : x.toNat * 2 ^ up + x.toNat / 2 ^ down < 256) :
    (((x <<< up) ||| (x >>> down)).setWidth 8).toNat = x.toNat * 2 ^ up + x.toNat / 2 ^ down := by
  have hup : x.toNat * 2 ^ up % 2 ^ 16 = x.toNat * 2 ^ up :=
    Nat.mod_eq_of_lt (((Nat.le_add_right _ _).trans_lt hfits).trans (by decide))
  rw [BitVec.toNat_setWidth, BitVec.toNat_or, BitVec.toNat_shiftLeft, BitVec.toNat_ushiftRight, Nat.shiftLeft_eq,
    Nat.shiftRight_eq_div_pow, hup, ← Nat.shiftLeft_eq, ← Nat.shiftLeft_add_eq_or_of_lt hlow, Nat.shiftLeft_eq]
  exact Nat.mod_eq_of_lt hfits

/-- Settles O33: the channels are the bits 11 to 15, 5 to 10 and 0 to 4. -/
theorem expand565ReplicatesTopBits : Obligations.Expand565ReplicatesTopBits := by
  unfold Obligations.Expand565ReplicatesTopBits
  intro v
  have hv := v.isLt
  have r5 : ((v >>> 11) &&& 0x1F).toNat = v.toNat / 2048 := (toNat_bits v _ 11 5 rfl).trans (by omega)
  have g6 : ((v >>> 5) &&& 0x3F).toNat = v.toNat / 32 % 64 := toNat_bits v _ 5 6 rfl
  have b5 : (v &&& 0x1F).toNat = v.toNat % 32 := toNat_lowBits v _ 5 rfl
  rw [← r5, ← g6, ← b5]
  exact ⟨toNat_replicateTop _ 3 2 (by omega) (by omega), toNat_replicateTop _ 2 4 (by omega) (by omega),
    toNat_replicateTop _ 3 2 (by omega) (by omega)⟩

/-- Settles O36: the channels are the bits 5 to 7, 2 to 4 and 0 to 1, and none exceeds 255 when scaled. -/
theorem expand332ScalesLinearly : Obligations.Expand332ScalesLinearly := by
  unfold Obligations.Expand332ScalesLinearly
  intro v
  have hv := v.isLt
  have r3 : ((v >>> 5) &&& 0x7).toNat = v.toNat / 32 := (toNat_bits v _ 5 3 rfl).trans (by omega)
  have g3 : ((v >>> 2) &&& 0x7).toNat = v.toNat / 4 % 8 := toNat_bits v _ 2 3 rfl
  have b2 : (v &&& 0x3).toNat = v.toNat % 4 := toNat_lowBits v _ 2 rfl
  simp only [expand332, r3, g3, b2, scaleDiv, BitVec.toNat_ofNat]
  omega

end Sys2Proof.Machine

namespace Sys2Proof.Machine

theorem takeInput_nil {s : State} (h : s.inputs = []) : takeInput s = s := by
  rw [takeInput, h]

theorem takeInput_cons {s : State} {x : Transaction} {ins : List Transaction} (h : s.inputs = x :: ins) :
    takeInput s = transact x { s with inputs := ins } := by
  rw [takeInput, h]

/-! ### `HR` is not read (10_state.md R10) -/

/-- Step D loads `HR` before a command reads it, and a pass that stops leaves it free, so an iteration does not depend on it. -/
theorem passStep_hr (s : State) (h : Header) : passStep { s with hr := h } = passStep s := by
  by_cases hl : s.phase = .atL ∧ s.buf.length < headerSize
  · rw [passStep_short hl]
    exact passStep_short hl
  · cases hf : findMarker s.cfg.marker s.buf with
    | none =>
      rw [passStep_noMarker hl hf]
      exact passStep_noMarker hl hf
    | some p =>
      rw [passStep_marker hl hf, passStep_marker (s := { s with hr := h }) hl hf, discardBefore_eq, discardBefore_eq]
      rfl

/-- A transaction keeps `HR`, or leaves it free as a FULL reset does. -/
theorem transact_hr (x : Transaction) (s : State) (h : Header) :
    ∃ h', transact x { s with hr := h } = { transact x s with hr := h' } := by
  cases x with
  | chunk first rest =>
    have hsame : ovfAfter { s with hr := h } (first :: rest).length = ovfAfter s (first :: rest).length := rfl
    refine ⟨h, ?_⟩
    simp only [transact, acceptChunk, hsame]
    split <;> rfl
  | ctrl v => exact ⟨h, rfl⟩
  | rst kind =>
    cases kind with
    | full => exact ⟨s.fullReset.hr, rfl⟩
    | liveness => exact ⟨h, rfl⟩
    | reconnect =>
      refine ⟨h, ?_⟩
      simp only [transact, resetBy, State.reconnect]
      split <;> rfl

theorem takeInput_hr (s : State) (h : Header) : ∃ h', takeInput { s with hr := h } = { takeInput s with hr := h' } := by
  rcases takeInput_cases s with ⟨hi, e⟩ | ⟨x, ins, hi, e⟩
  · rw [e, takeInput_nil (s := { s with hr := h }) hi]
    exact ⟨h, rfl⟩
  · rw [e, takeInput_cons (s := { s with hr := h }) hi]
    exact transact_hr x { s with inputs := ins } h

/-- Settles O48: the pass loads `HR` before it reads it, and no transaction and no turn of the consumer reads it. -/
theorem hrIsNeverRead : Obligations.HrIsNeverRead := by
  unfold Obligations.HrIsNeverRead
  intro s t h hs
  rcases step_cases hs with ⟨hb, hp, rfl⟩ | ⟨hb, hp, hpass⟩ | ⟨ht, rfl⟩ | ⟨ht, rfl⟩
  · obtain ⟨h', e⟩ := takeInput_hr s.turnTaken h
    exact ⟨h', (step_idle (s := { s with hr := h }) hb hp).trans (congrArg _ e)⟩
  · exact ⟨t.hr, (step_pass (s := { s with hr := h }) hb hp).trans ((passStep_hr s.turnTaken h).trans hpass)⟩
  · refine ⟨h, (step_tick (s := { s with hr := h }) ht).trans ?_⟩
    rw [tick_eq, tick_eq]
    rfl
  · refine ⟨h, (step_connectionLost (s := { s with hr := h }) ht).trans ?_⟩
    simp only [loseConnection, State.turnTaken_cfg]
    split <;> rfl

/-! ### The consumer's state is not read by the block (48_downstream.md R106) -/

/-- `s` with other contents of the consumer. -/
def State.withConsumer (q : List Region) (pi : List Info) (cv : Canvas) (sh : Option Canvas) (s : State) : State :=
  { s with queue := q, pendingInfo := pi, canvas := cv, shown := sh }

section
variable {s t : State} (q : List Region) (pi : List Info) (cv : Canvas) (sh : Option Canvas)

/-- A command sends its event to whatever queues there are. -/
theorem exec_withConsumer {i : Instr} (h : exec i s = .next t) :
    ∃ q' pi', exec i (s.withConsumer q pi cv sh) = .next (t.withConsumer q' pi' cv sh) := by
  rcases exec_cases h with ⟨x1, y1, x2, y2, n, rfl, rfl⟩ | ⟨fmt, x1, y1, x2, y2, n, rfl, rfl⟩ | ⟨cmd, rfl, rfl⟩
  · exact ⟨_, _, rfl⟩
  · rw [exec_instr]
    by_cases hw : s.buf.length < recordLength n
    · rw [runFrame_waits hw, runFrame_waits (s := s.withConsumer q pi cv sh) hw]
      exact ⟨q, pi, rfl⟩
    · rw [runFrame_whole (Nat.not_lt.mp hw), runFrame_whole (s := s.withConsumer q pi cv sh) (Nat.not_lt.mp hw)]
      exact ⟨_, _, rfl⟩
  · exact ⟨_, _, rfl⟩

theorem discardBefore_withConsumer (p : Nat) (s : State) :
    (s.withConsumer q pi cv sh).discardBefore p = (s.discardBefore p).withConsumer q pi cv sh := by
  rw [discardBefore_eq, discardBefore_eq]
  rfl

theorem passStep_withConsumer (h : passStep s = .next t) :
    ∃ q' pi', passStep (s.withConsumer q pi cv sh) = .next (t.withConsumer q' pi' cv sh) := by
  rcases passStep_cases h with ⟨hL, hl, rfl⟩ | ⟨hl, hf, rfl⟩ | ⟨p, hl, hf, hrest⟩
  · exact ⟨q, pi, passStep_short ⟨hL, hl⟩⟩
  · exact ⟨q, pi, passStep_noMarker hl hf⟩
  · rw [passStep_marker (s := s.withConsumer q pi cv sh) hl hf, discardBefore_withConsumer]
    rcases hrest with ⟨hshort, rfl⟩ | ⟨hwhole, he⟩
    · exact ⟨q, pi, if_pos hshort⟩
    · obtain ⟨q', pi', e⟩ := exec_withConsumer q pi cv sh he
      exact ⟨q', pi', (if_neg (Nat.not_lt.mpr hwhole)).trans e⟩

theorem transact_withConsumer (x : Transaction) (s : State) :
    ∃ q' pi' cv' sh', transact x (s.withConsumer q pi cv sh) = (transact x s).withConsumer q' pi' cv' sh' := by
  cases x with
  | chunk first rest =>
    have hsame : ovfAfter (s.withConsumer q pi cv sh) (first :: rest).length = ovfAfter s (first :: rest).length := rfl
    refine ⟨q, pi, cv, sh, ?_⟩
    simp only [transact, acceptChunk, hsame]
    split <;> rfl
  | ctrl v => exact ⟨q, pi, cv, sh, rfl⟩
  | rst kind =>
    cases kind with
    | full =>
      simp only [transact, resetBy, State.fullReset, State.consumerOnFull, State.withConsumer]
      split
      · exact ⟨q, pi, cv, sh, rfl⟩
      · exact ⟨[], [], .uninitialized, none, rfl⟩
    | liveness => exact ⟨q, pi, cv, sh, rfl⟩
    | reconnect =>
      refine ⟨[], pi, cv, sh, ?_⟩
      simp only [transact, resetBy]
      cases hc : s.cfg.reconnectClearsBuffer with
      | false =>
        rw [reconnect_of_keeps hc, reconnect_of_keeps (s := s.withConsumer q pi cv sh) hc]
        rfl
      | true =>
        rw [reconnect_of_clears hc, reconnect_of_clears (s := s.withConsumer q pi cv sh) hc]
        rfl

theorem takeInput_withConsumer (s : State) :
    ∃ q' pi' cv' sh', takeInput (s.withConsumer q pi cv sh) = (takeInput s).withConsumer q' pi' cv' sh' := by
  rcases takeInput_cases s with ⟨hi, e⟩ | ⟨x, ins, hi, e⟩
  · rw [e, takeInput_nil (s := s.withConsumer q pi cv sh) hi]
    exact ⟨q, pi, cv, sh, rfl⟩
  · rw [e, takeInput_cons (s := s.withConsumer q pi cv sh) hi]
    exact transact_withConsumer q pi cv sh x { s with inputs := ins }

end

/-- A turn of the consumer changes its own state only. -/
theorem SameBlock.eq_withConsumer {s t : State} (h : SameBlock s t) : t = s.withConsumer t.queue t.pendingInfo t.canvas t.shown := by
  obtain ⟨hcfg, hbuf, hpos, hposBase, hingested, hhr, hswap16, hinfoSeq, hout, hovf, hphase, hfreeCtr, hinputs, hturns⟩ := h
  cases s
  cases t
  subst_vars
  rfl

/-- Settles O49: the block writes the consumer's state and never reads it. -/
theorem consumerNeverDisturbsTheBlock : Obligations.ConsumerNeverDisturbsTheBlock := by
  unfold Obligations.ConsumerNeverDisturbsTheBlock
  refine ⟨fun s t q pi cv sh hb h => ?block, fun s t hb h => (sameBlock_of_consumerTurn hb h).eq_withConsumer⟩
  by_cases hp : s.phase = .idle
  · rw [step_idle hb hp] at h
    cases h
    obtain ⟨q', pi', cv', sh', e⟩ := takeInput_withConsumer q pi cv sh s.turnTaken
    exact ⟨q', pi', cv', sh', (step_idle (s := s.withConsumer q pi cv sh) hb hp).trans (congrArg _ e)⟩
  · rw [step_pass hb hp] at h
    obtain ⟨q', pi', e⟩ := passStep_withConsumer q pi cv sh h
    exact ⟨q', pi', cv, sh, (step_pass (s := s.withConsumer q pi cv sh) hb hp).trans e⟩

/-! ### `SWAP16` selects the byte order of raw 16-bit pixels only (20_memory.md R28) -/

theorem frameEvent_swap16 {c : Config} {rec : Record} (hf : rec.fmt ≠ .raw16) (w w' : Bool) (endm : U32) :
    frameEvent c w rec endm = frameEvent c w' rec endm := by
  have hunpack : unpackRecord c w rec = unpackRecord c w' rec := by
    unfold unpackRecord
    cases hfmt : rec.fmt with
    | raw16 => exact absurd hfmt hf
    | rle16 => rfl
    | raw8 => rfl
    | rle8 => rfl
  simp only [frameEvent, decodeEvent, decodeRecord, hunpack]

/-- No command but FRAME_RAW16 reads `SWAP16`. -/
theorem exec_swap16 {i : Instr} {s t : State} (v : Bool) (hi : ∀ x1 y1 x2 y2 n, i ≠ .frameRaw16 x1 y1 x2 y2 n)
    (h : exec i s = .next t) : exec i { s with swap16 := v } = .next { t with swap16 := v } := by
  rcases exec_cases h with ⟨x1, y1, x2, y2, n, rfl, rfl⟩ | ⟨fmt, x1, y1, x2, y2, n, rfl, rfl⟩ | ⟨cmd, rfl, rfl⟩
  · rfl
  · have hf : fmt ≠ .raw16 := fun hf => hi x1 y1 x2 y2 n (by rw [hf]; rfl)
    rw [exec_instr]
    by_cases hw : s.buf.length < recordLength n
    · rw [runFrame_waits hw, runFrame_waits (s := { s with swap16 := v }) hw]
      rfl
    · rw [runFrame_whole (Nat.not_lt.mp hw), runFrame_whole (s := { s with swap16 := v }) (Nat.not_lt.mp hw),
        frameEvent_swap16 (rec := State.frameRecord fmt x1 y1 x2 y2 n s) hf s.swap16 v]
      rfl
  · rfl

/-- What the fetch answers, with another `SWAP16`. -/
def Fetched.withSwap16 (v : Bool) : Fetched → Fetched
  | .stopped t   => .stopped { t with swap16 := v }
  | .command i t => .command i { t with swap16 := v }

theorem parseAndDispatch_swap16 (s : State) (v : Bool) :
    parseAndDispatch { s with swap16 := v } = (parseAndDispatch s).withSwap16 v := by
  unfold parseAndDispatch
  split <;> rfl

theorem scanFrom_swap16 (s : State) (v : Bool) : scanFrom { s with swap16 := v } = (scanFrom s).withSwap16 v := by
  unfold scanFrom
  cases hf : findMarker s.cfg.marker s.buf with
  | none => rfl
  | some p =>
    have hbefore : State.discardBefore p { s with swap16 := v } = { s.discardBefore p with swap16 := v } := by
      rw [discardBefore_eq, discardBefore_eq]
    simp only [hbefore, parseAndDispatch_swap16]

/-- No step of the framing reads `SWAP16`. -/
theorem fetch_swap16 (s : State) (v : Bool) : fetch { s with swap16 := v } = (fetch s).withSwap16 v := by
  unfold fetch
  split
  · rfl
  · exact scanFrom_swap16 s v

/-- Settles O39: of the arms of the decoder only that of RAW16 reads `SWAP16`. -/
theorem swap16AffectsOnlyRaw16 : Obligations.Swap16AffectsOnlyRaw16 := by
  unfold Obligations.Swap16AffectsOnlyRaw16
  exact fun s t v => ⟨fun i hi h => exec_swap16 v hi h, fun h => by rw [fetch_swap16, h]; rfl, fun i h => by rw [fetch_swap16, h]; rfl⟩

end Sys2Proof.Machine

namespace Sys2Proof.Machine

/-- Settles O47: the reset values, read off the state after reset. -/
theorem powerOnStateOfTheBlock : Obligations.PowerOnStateOfTheBlock := by
  unfold Obligations.PowerOnStateOfTheBlock
  exact fun c => ⟨rfl, rfl, rfl, rfl, rfl, rfl, rfl, rfl, rfl, rfl, rfl⟩

/-! ### The downstream contract (48_downstream.md) -/

/-- A push to a queue that holds the newest of a list leaves the newest of the list with the pushed region behind it. -/
theorem pushRegion_drop {cap : Nat} (hcap : 0 < cap) (l : List Region) (r : Region) :
    pushRegion cap (l.drop (l.length - cap)) r = (l ++ [r]).drop ((l ++ [r]).length - cap) := by
  rw [List.length_append, List.length_singleton]
  by_cases hroom : l.length < cap
  · rw [Nat.sub_eq_zero_of_le hroom.le, Nat.sub_eq_zero_of_le hroom]
    exact pushRegion_of_lt hroom r
  · have hfull : cap ≤ (l.drop (l.length - cap)).length := by rw [List.length_drop]; omega
    rw [pushRegion_of_le hfull, List.tail_drop, List.drop_append_of_le_length (by omega)]
    congr 2
    omega

/-- Settles O51, by induction on the pushes from the last one back. -/
theorem queueKeepsTheNewest : Obligations.QueueKeepsTheNewest := by
  unfold Obligations.QueueKeepsTheNewest
  intro cap rs hcap
  induction rs using List.reverseRecOn with
  | nil => exact List.drop_nil.symm
  | append_singleton l r ih => rw [List.foldl_append, ih, List.foldl_cons, List.foldl_nil, pushRegion_drop hcap]

theorem applyInfo_of_dims_ne {c : Config} {f : Surface} {i : Info}
    (h : (applyInfoMap c.infoMap i).1 ≠ f.width ∨ (applyInfoMap c.infoMap i).2.1 ≠ f.height) :
    applyInfo c (.sized f) i = .sized (allocate (applyInfoMap c.infoMap i) i.seq) := if_pos h

theorem applyInfo_of_dims_eq {c : Config} {f : Surface} {i : Info}
    (hw : (applyInfoMap c.infoMap i).1 = f.width) (hh : (applyInfoMap c.infoMap i).2.1 = f.height) :
    applyInfo c (.sized f) i = .sized { f with bpp := (applyInfoMap c.infoMap i).2.2 } :=
  if_neg (not_or.mpr ⟨not_not_intro hw, not_not_intro hh⟩)

/-- Settles O53: an allocated canvas lists no pixel, so each reads (0,0,0). -/
theorem infoAllocatesOrSetsBpp : Obligations.InfoAllocatesOrSetsBpp := by
  unfold Obligations.InfoAllocatesOrSetsBpp
  intro c i w h b hmap
  refine ⟨?first, fun f hne => ?other, fun f hw hh => ?equal⟩
  case first => exact ⟨allocate (w, h, b) i.seq, by rw [applyInfo, hmap], rfl, rfl, rfl, rfl, fun _ _ => rfl⟩
  case other =>
    exact ⟨allocate (w, h, b) i.seq, by rw [applyInfo_of_dims_ne (by rwa [hmap]), hmap], rfl, rfl, rfl, rfl, fun _ _ => rfl⟩
  case equal => rw [applyInfo_of_dims_eq (by rwa [hmap]) (by rwa [hmap]), hmap]

theorem writeRegion_of_fresh {c : Config} {f : Surface} {r : Region} (h : f.allocSeq ≤ r.seq) :
    writeRegion c (.sized f) r = .sized (blit r f) := by
  have hfresh : stale f r = false := by simpa [stale] using h
  simp [writeRegion, hfresh]

theorem writeRegion_of_drop {c : Config} {f : Surface} {r : Region} (h : r.seq < f.allocSeq) (hc : c.stalePolicy = .drop) :
    writeRegion c (.sized f) r = .sized f := by
  have hstale : stale f r = true := by simpa [stale] using h
  simp [writeRegion, hstale, hc]

theorem writeRegion_of_clip {c : Config} {f : Surface} {r : Region} (hc : c.stalePolicy = .clip) :
    writeRegion c (.sized f) r = .sized (blit r f) := by
  simp [writeRegion, hc]

/-- Settles O55, one equation per branch of `writeRegion`. -/
theorem staleRegionFollowsThePolicy : Obligations.StaleRegionFollowsThePolicy := by
  unfold Obligations.StaleRegionFollowsThePolicy
  exact fun c f r => ⟨rfl, writeRegion_of_fresh, writeRegion_of_drop, fun _ => writeRegion_of_clip⟩

/-- Settles O56: the Info allocates a canvas with no pixel, numbered after the region, which is then dropped, or written as on any
well-formed canvas. -/
theorem resizeThenStaleRegion : Obligations.ResizeThenStaleRegion := by
  unfold Obligations.ResizeThenStaleRegion
  intro c f i r w h b hmap hne hseq hwhole
  have hwf := allocate_wf (w, h, b) i.seq
  rw [applyInfo_of_dims_ne (by rwa [hmap]), hmap]
  cases hc : c.stalePolicy with
  | drop =>
    rw [writeRegion_of_drop hseq hc]
    exact ⟨_, rfl, rfl, rfl, hwf, fun _ _ _ => rfl, nofun⟩
  | clip =>
    obtain ⟨hwidth, hheight, -⟩ := blit_dims r (allocate (w, h, b) i.seq)
    rw [writeRegion_of_clip hc]
    exact ⟨_, rfl, hwidth, hheight, blit_wf r hwf, nofun, fun _ x y hx hy => pixelAt_blit hwf hwhole hx hy⟩

end Sys2Proof.Machine
